-- ==== Sys2Proof/Word.lean ====
section
/-! DEFINITION. The two widths the ports of the block move: words on the command port, bytes on the stream ports. -/

namespace Sys2Proof

/-- A word of the command port (00_scope R8): 32 bits, bit 0 the least significant. -/
abbrev Word := BitVec 32

/-- A byte of the source and sink ports (20_memory R79). -/
abbrev Byte := BitVec 8

end Sys2Proof
end

