-- ==== Sys2Proof/Syntax.lean ====
section
/-! DEFINITION. The commands: one constructor per row of spec/opcode_table.json, operands in the order of 30_encoding R106. -/

namespace Sys2Proof

/-- A command with its fields and argument words. A field is the unsigned value 30_encoding R108 reads it as (a bit
field of one bit is a `Bool`, `true` for 1); an argument is a whole word (R92). -/
inductive Instr where
  /-- NOP (43_control R250). -/
  | nop
  /-- REG_READ csr (43_control R251). -/
  | regRead (csr : Nat)
  /-- REG_WRITE csr, value (43_control R252). -/
  | regWrite (csr : Nat) (value : Word)
  /-- RC_START_ENC (40_range_coder R128). -/
  | rcStartEnc
  /-- RC_START_DEC (40_range_coder R129). -/
  | rcStartDec
  /-- RC_FLUSH (40_range_coder R132). -/
  | rcFlush
  /-- RC_ABORT (40_range_coder R133). -/
  | rcAbort
  /-- RC_ENC_P bit, p (40_range_coder R130). -/
  | rcEncP (bit : Bool) (p : Nat)
  /-- RC_DEC_P p (40_range_coder R131). -/
  | rcDecP (p : Nat)
  /-- BC_CLEAR (41_bit_chance R163). -/
  | bcClear
  /-- BC_SET ctx, value (41_bit_chance R164). -/
  | bcSet (ctx : Nat) (value : Word)
  /-- BC_GET ctx (41_bit_chance R165). -/
  | bcGet (ctx : Nat)
  /-- BC_PUT t, bit, ctx (41_bit_chance R166). -/
  | bcPut (t : Nat) (bit : Bool) (ctx : Nat)
  /-- TBL_BUILD t, cut, alpha (41_bit_chance R172). -/
  | tblBuild (t cut : Nat) (alpha : Word)
  /-- TBL_WRITE t, b, s, value (41_bit_chance R173). -/
  | tblWrite (t : Nat) (b : Bool) (st : Nat) (value : Word)
  /-- TBL_READ t, b, s (41_bit_chance R174). -/
  | tblRead (t : Nat) (b : Bool) (st : Nat)
  /-- ENC_CTX t, bit, ctx (41_bit_chance R168). -/
  | encCtx (t : Nat) (bit : Bool) (ctx : Nat)
  /-- DEC_CTX t, ctx (41_bit_chance R169). -/
  | decCtx (t ctx : Nat)
  /-- YCC_INIT np, min0, max0, min1, max1, min2, max2 (42_ycocg R201). -/
  | yccInit (np : Nat) (min0 max0 min1 max1 min2 max2 : Word)
  /-- YCC_FWD r, g, b (42_ycocg R206). -/
  | yccFwd (r g b : Word)
  /-- YCC_INV y, co, cg (42_ycocg R207). -/
  | yccInv (y co cg : Word)
  /-- YCC_RANGE_Y (42_ycocg R210). -/
  | yccRangeY
  /-- YCC_RANGE_CO y (42_ycocg R211). -/
  | yccRangeCo (y : Word)
  /-- YCC_RANGE_CG y, co (42_ycocg R215). -/
  | yccRangeCg (y co : Word)
deriving DecidableEq, Repr

end Sys2Proof
end

