-- ==== Sys2Proof/WellFormed.lean ====
section
/-! DEFINITION. Which commands a word can spell: every field within the range 30_encoding R108 gives it. -/

namespace Sys2Proof

/-- The field ranges of 30_encoding R108. Range checks beyond the field width (`CTX < NCTX`, `P ≥ 1`, …) are not
here: they belong to the commands, which fault on them. -/
def wellFormed : Instr → Bool
  | .nop => true
  | .regRead csr => decide (csr < 256)
  | .regWrite csr _ => decide (csr < 256)
  | .rcStartEnc => true
  | .rcStartDec => true
  | .rcFlush => true
  | .rcAbort => true
  | .rcEncP _ p => decide (p < 4096)
  | .rcDecP p => decide (p < 4096)
  | .bcClear => true
  | .bcSet ctx _ => decide (ctx < 65536)
  | .bcGet ctx => decide (ctx < 65536)
  | .bcPut t _ ctx => decide (t < 16) && decide (ctx < 65536)
  | .tblBuild t cut _ => decide (t < 16) && decide (cut < 16)
  | .tblWrite t _ st _ => decide (t < 16) && decide (st < 4096)
  | .tblRead t _ st => decide (t < 16) && decide (st < 4096)
  | .encCtx t _ ctx => decide (t < 16) && decide (ctx < 65536)
  | .decCtx t ctx => decide (t < 16) && decide (ctx < 65536)
  | .yccInit np _ _ _ _ _ _ => decide (np < 256)
  | .yccFwd _ _ _ => true
  | .yccInv _ _ _ => true
  | .yccRangeY => true
  | .yccRangeCo _ => true
  | .yccRangeCg _ _ => true

end Sys2Proof
end

