-- ==== Sys2Proof/Decode.lean ====
section
/-! DEFINITION. The decoder of 30_encoding R102, total on every word sequence, and the encoder written from the same map. -/

namespace Sys2Proof

/-- The opcodes of 30_encoding R101. -/
inductive Opcode where
  | nop | regRead | regWrite
  | rcStartEnc | rcStartDec | rcFlush | rcAbort | rcEncP | rcDecP
  | bcClear | bcSet | bcGet | bcPut | tblBuild | tblWrite | tblRead
  | encCtx | decCtx
  | yccInit | yccFwd | yccInv | yccRangeY | yccRangeCo | yccRangeCg
deriving DecidableEq, Repr

/-- One row of the opcode map (30_encoding R101): a word `w` selects it when `w &&& mask = pattern`. -/
structure OpRow where
  op : Opcode
  mnemonic : String
  nargs : Nat
  nres : Nat
  pattern : Word
  mask : Word
deriving DecidableEq, Repr

/-- Control and register rows of 30_encoding R101. -/
def controlRows : List OpRow :=
  [⟨.nop, "NOP", 0, 0, 0x00000000, 0xFFFFFFFF⟩,
   ⟨.regRead, "REG_READ", 0, 1, 0x01000000, 0xFFFFFF00⟩,
   ⟨.regWrite, "REG_WRITE", 1, 0, 0x02000000, 0xFFFFFF00⟩]

/-- Range coder rows of 30_encoding R101. -/
def coderRows : List OpRow :=
  [⟨.rcStartEnc, "RC_START_ENC", 0, 0, 0x10000000, 0xFFFFFFFF⟩,
   ⟨.rcStartDec, "RC_START_DEC", 0, 0, 0x11000000, 0xFFFFFFFF⟩,
   ⟨.rcFlush, "RC_FLUSH", 0, 0, 0x12000000, 0xFFFFFFFF⟩,
   ⟨.rcAbort, "RC_ABORT", 0, 0, 0x13000000, 0xFFFFFFFF⟩,
   ⟨.rcEncP, "RC_ENC_P", 0, 0, 0x14000000, 0xFFFFE000⟩,
   ⟨.rcDecP, "RC_DEC_P", 0, 1, 0x15000000, 0xFFFFF000⟩]

/-- Bit-chance, table and adaptive coding rows of 30_encoding R101. -/
def chanceRows : List OpRow :=
  [⟨.bcClear, "BC_CLEAR", 0, 0, 0x20000000, 0xFFFFFFFF⟩,
   ⟨.bcSet, "BC_SET", 1, 0, 0x21000000, 0xFFFF0000⟩,
   ⟨.bcGet, "BC_GET", 0, 1, 0x22000000, 0xFFFF0000⟩,
   ⟨.bcPut, "BC_PUT", 0, 0, 0x23000000, 0xFF0E0000⟩,
   ⟨.tblBuild, "TBL_BUILD", 1, 0, 0x24000000, 0xFF0FFFF0⟩,
   ⟨.tblWrite, "TBL_WRITE", 1, 0, 0x25000000, 0xFF0FE000⟩,
   ⟨.tblRead, "TBL_READ", 0, 1, 0x26000000, 0xFF0FE000⟩,
   ⟨.encCtx, "ENC_CTX", 0, 0, 0x30000000, 0xFF0E0000⟩,
   ⟨.decCtx, "DEC_CTX", 0, 1, 0x31000000, 0xFF0F0000⟩]

/-- YCoCg rows of 30_encoding R101. -/
def colourRows : List OpRow :=
  [⟨.yccInit, "YCC_INIT", 6, 1, 0x40000000, 0xFFFFFF00⟩,
   ⟨.yccFwd, "YCC_FWD", 3, 3, 0x41000000, 0xFFFFFFFF⟩,
   ⟨.yccInv, "YCC_INV", 3, 3, 0x42000000, 0xFFFFFFFF⟩,
   ⟨.yccRangeY, "YCC_RANGE_Y", 0, 2, 0x43000000, 0xFFFFFFFF⟩,
   ⟨.yccRangeCo, "YCC_RANGE_CO", 1, 2, 0x44000000, 0xFFFFFFFF⟩,
   ⟨.yccRangeCg, "YCC_RANGE_CG", 2, 2, 0x45000000, 0xFFFFFFFF⟩]

/-- The opcode map (30_encoding R101). -/
def opcodeMap : List OpRow := controlRows ++ coderRows ++ chanceRows ++ colourRows

/-- The row a command word selects, `none` for an illegal word (30_encoding R102, R103). -/
def selectRow (w : Word) : Option OpRow :=
  opcodeMap.find? (fun r => w &&& r.mask == r.pattern)

/-- Bits `hi` down to `lo` of a word, as a number (30_encoding R108: zero-extended). -/
def bitsOf (w : Word) (hi lo : Nat) : Nat := w.toNat / 2 ^ lo % 2 ^ (hi + 1 - lo)

/-- Bit `i` of a word. -/
def bitOf (w : Word) (i : Nat) : Bool := bitsOf w i i == 1

/-- Field `P` of format FP and `S` of FE, bits 11:0. -/
def fieldP (w : Word) : Nat := bitsOf w 11 0
/-- Field `CTX` of format FC, bits 15:0. -/
def fieldCtx (w : Word) : Nat := bitsOf w 15 0
/-- Field `TSEL` of formats FC, FB and FE, bits 23:20. -/
def fieldTsel (w : Word) : Nat := bitsOf w 23 20
/-- Field `CUT` of format FB, bits 3:0. -/
def fieldCut (w : Word) : Nat := bitsOf w 3 0
/-- Field `CSR` of format FR and `NP` of FY, bits 7:0. -/
def fieldLow8 (w : Word) : Nat := bitsOf w 7 0

/-- Argument word `k` of the words after the command word (30_encoding R92). -/
def argWord (ws : List Word) (k : Nat) : Word := ws.getD k 0

/-- The command an opcode's word and its arguments spell (30_encoding R94 to R100, R106). -/
def assemble (op : Opcode) (w : Word) (ws : List Word) : Instr :=
  match op with
  | .nop => .nop
  | .regRead => .regRead (fieldLow8 w)
  | .regWrite => .regWrite (fieldLow8 w) (argWord ws 0)
  | .rcStartEnc => .rcStartEnc
  | .rcStartDec => .rcStartDec
  | .rcFlush => .rcFlush
  | .rcAbort => .rcAbort
  | .rcEncP => .rcEncP (bitOf w 12) (fieldP w)
  | .rcDecP => .rcDecP (fieldP w)
  | .bcClear => .bcClear
  | .bcSet => .bcSet (fieldCtx w) (argWord ws 0)
  | .bcGet => .bcGet (fieldCtx w)
  | .bcPut => .bcPut (fieldTsel w) (bitOf w 16) (fieldCtx w)
  | .tblBuild => .tblBuild (fieldTsel w) (fieldCut w) (argWord ws 0)
  | .tblWrite => .tblWrite (fieldTsel w) (bitOf w 12) (fieldP w) (argWord ws 0)
  | .tblRead => .tblRead (fieldTsel w) (bitOf w 12) (fieldP w)
  | .encCtx => .encCtx (fieldTsel w) (bitOf w 16) (fieldCtx w)
  | .decCtx => .decCtx (fieldTsel w) (fieldCtx w)
  | .yccInit =>
    .yccInit (fieldLow8 w) (argWord ws 0) (argWord ws 1) (argWord ws 2) (argWord ws 3) (argWord ws 4) (argWord ws 5)
  | .yccFwd => .yccFwd (argWord ws 0) (argWord ws 1) (argWord ws 2)
  | .yccInv => .yccInv (argWord ws 0) (argWord ws 1) (argWord ws 2)
  | .yccRangeY => .yccRangeY
  | .yccRangeCo => .yccRangeCo (argWord ws 0)
  | .yccRangeCg => .yccRangeCg (argWord ws 0) (argWord ws 1)

/-- Why a word is illegal (30_encoding R103). -/
inductive IllegalWord where
  /-- Its opcode byte is not in the map (R104). -/
  | reservedOpcode
  /-- Its opcode byte is in the map, and a reserved or extra-zero field is not zero. -/
  | nonzeroReservedField
deriving DecidableEq, Repr

/-- Which of the two ways an illegal word is illegal (30_encoding R103). -/
def illegalReason (w : Word) : IllegalWord :=
  if opcodeMap.any (fun r => bitsOf r.pattern 31 24 == bitsOf w 31 24) then .nonzeroReservedField else .reservedOpcode

/-- What the words waiting on the command port give. -/
inductive Decoded where
  /-- No whole command has arrived: no word, or fewer argument words than the opcode fixes (20_memory R71). -/
  | wait
  /-- An illegal word, a command of length 1 (30_encoding R103), and the words after it. -/
  | illegal (w : Word) (why : IllegalWord) (rest : List Word)
  /-- A command with all its argument words, and the words after them. -/
  | command (i : Instr) (rest : List Word)
deriving DecidableEq, Repr

/-- Read the first command of a word sequence (30_encoding R90, R102, R103; 20_memory R71). -/
def decode : List Word → Decoded
  | [] => .wait
  | w :: ws =>
    match selectRow w with
    | none => .illegal w (illegalReason w) ws
    | some r => if ws.length < r.nargs then .wait else .command (assemble r.op w ws) (ws.drop r.nargs)

/-! ### The encoder -/

/-- Format F0 (30_encoding R94). -/
def formatF0 (opc : Nat) : Word := BitVec.ofNat 32 (opc * 2 ^ 24)
/-- Formats FR and FY: an 8-bit field in bits 7:0 (30_encoding R95, R100). -/
def formatFR (opc low8 : Nat) : Word := BitVec.ofNat 32 (opc * 2 ^ 24 + low8)
/-- Format FP (30_encoding R96). -/
def formatFP (opc : Nat) (bit : Bool) (p : Nat) : Word := BitVec.ofNat 32 (opc * 2 ^ 24 + bit.toNat * 2 ^ 12 + p)
/-- Format FC (30_encoding R97). -/
def formatFC (opc t : Nat) (bit : Bool) (ctx : Nat) : Word :=
  BitVec.ofNat 32 (opc * 2 ^ 24 + t * 2 ^ 20 + bit.toNat * 2 ^ 16 + ctx)
/-- Format FB (30_encoding R98). -/
def formatFB (opc t cut : Nat) : Word := BitVec.ofNat 32 (opc * 2 ^ 24 + t * 2 ^ 20 + cut)
/-- Format FE (30_encoding R99). -/
def formatFE (opc t : Nat) (b : Bool) (st : Nat) : Word :=
  BitVec.ofNat 32 (opc * 2 ^ 24 + t * 2 ^ 20 + b.toNat * 2 ^ 12 + st)

/-- The command word of a command (30_encoding R94 to R101). -/
def encodeWord : Instr → Word
  | .nop => formatF0 0x00
  | .regRead csr => formatFR 0x01 csr
  | .regWrite csr _ => formatFR 0x02 csr
  | .rcStartEnc => formatF0 0x10
  | .rcStartDec => formatF0 0x11
  | .rcFlush => formatF0 0x12
  | .rcAbort => formatF0 0x13
  | .rcEncP bit p => formatFP 0x14 bit p
  | .rcDecP p => formatFP 0x15 false p
  | .bcClear => formatF0 0x20
  | .bcSet ctx _ => formatFC 0x21 0 false ctx
  | .bcGet ctx => formatFC 0x22 0 false ctx
  | .bcPut t bit ctx => formatFC 0x23 t bit ctx
  | .tblBuild t cut _ => formatFB 0x24 t cut
  | .tblWrite t b st _ => formatFE 0x25 t b st
  | .tblRead t b st => formatFE 0x26 t b st
  | .encCtx t bit ctx => formatFC 0x30 t bit ctx
  | .decCtx t ctx => formatFC 0x31 t false ctx
  | .yccInit np _ _ _ _ _ _ => formatFR 0x40 np
  | .yccFwd _ _ _ => formatF0 0x41
  | .yccInv _ _ _ => formatF0 0x42
  | .yccRangeY => formatF0 0x43
  | .yccRangeCo _ => formatF0 0x44
  | .yccRangeCg _ _ => formatF0 0x45

/-- The argument words of a command, in the order sent (30_encoding R92, R106). -/
def encodeArgs : Instr → List Word
  | .nop => []
  | .regRead _ => []
  | .regWrite _ v => [v]
  | .rcStartEnc => []
  | .rcStartDec => []
  | .rcFlush => []
  | .rcAbort => []
  | .rcEncP _ _ => []
  | .rcDecP _ => []
  | .bcClear => []
  | .bcSet _ v => [v]
  | .bcGet _ => []
  | .bcPut _ _ _ => []
  | .tblBuild _ _ alpha => [alpha]
  | .tblWrite _ _ _ v => [v]
  | .tblRead _ _ _ => []
  | .encCtx _ _ _ => []
  | .decCtx _ _ => []
  | .yccInit _ min0 max0 min1 max1 min2 max2 => [min0, max0, min1, max1, min2, max2]
  | .yccFwd r g b => [r, g, b]
  | .yccInv y co cg => [y, co, cg]
  | .yccRangeY => []
  | .yccRangeCo y => [y]
  | .yccRangeCg y co => [y, co]

/-- The words of a command: its command word, then its argument words (30_encoding R90). -/
def encode (i : Instr) : List Word := encodeWord i :: encodeArgs i

/-! ### The opcode table's numbering, and the other names of 30_encoding R106 and R107 -/

/-- The words of an instruction whose first `nbits` bits are `w` and whose other bits are zero: word `k` holds bits
`32 k + 31` down to `32 k`, and the longest command has seven words (30_encoding R90, R101). -/
def tableWords (nbits w : Nat) : List Word :=
  (List.range 7).map (fun k => BitVec.ofNat 32 (w % 2 ^ nbits / 2 ^ (32 * k)))

/-- The instruction this decoder reads from an instruction numbered as spec/opcode_table.json numbers it. -/
def decodeTableWord (nbits w : Nat) : Option Instr :=
  match decode (tableWords nbits w) with
  | .command i _ => some i
  | .illegal _ _ _ => none
  | .wait => none

/-- `TBL_LEAF t` (30_encoding R107): the leaf and meta-layer defaults of 00_scope R7. -/
def pseudoTblLeaf (t : Nat) : Instr := .tblBuild t 2 226050910
/-- `TBL_INTCODER t` (30_encoding R107): the integer-coder defaults of 00_scope R7. -/
def pseudoTblIntcoder (t : Nat) : Instr := .tblBuild t 4 214748364
/-- `SET_CLIP v` (30_encoding R107). -/
def pseudoSetClip (v : Bool) : Instr := .regWrite 0x03 (BitVec.ofNat 32 v.toNat)
/-- `READ_STATUS` (30_encoding R107). -/
def pseudoReadStatus : Instr := .regRead 0x02

/-- The mnemonic of a command (30_encoding R101, R106). -/
def mnemonicOf : Instr → String
  | .nop => "NOP"
  | .regRead _ => "REG_READ"
  | .regWrite _ _ => "REG_WRITE"
  | .rcStartEnc => "RC_START_ENC"
  | .rcStartDec => "RC_START_DEC"
  | .rcFlush => "RC_FLUSH"
  | .rcAbort => "RC_ABORT"
  | .rcEncP _ _ => "RC_ENC_P"
  | .rcDecP _ => "RC_DEC_P"
  | .bcClear => "BC_CLEAR"
  | .bcSet _ _ => "BC_SET"
  | .bcGet _ => "BC_GET"
  | .bcPut _ _ _ => "BC_PUT"
  | .tblBuild _ _ _ => "TBL_BUILD"
  | .tblWrite _ _ _ _ => "TBL_WRITE"
  | .tblRead _ _ _ => "TBL_READ"
  | .encCtx _ _ _ => "ENC_CTX"
  | .decCtx _ _ => "DEC_CTX"
  | .yccInit _ _ _ _ _ _ _ => "YCC_INIT"
  | .yccFwd _ _ _ => "YCC_FWD"
  | .yccInv _ _ _ => "YCC_INV"
  | .yccRangeY => "YCC_RANGE_Y"
  | .yccRangeCo _ => "YCC_RANGE_CO"
  | .yccRangeCg _ _ => "YCC_RANGE_CG"

/-- The operands of a command in the order of the assembler syntax (30_encoding R106): its fields, then its argument
words as unsigned numbers. -/
def operandsOf : Instr → List Nat
  | .nop => []
  | .regRead csr => [csr]
  | .regWrite csr v => [csr, v.toNat]
  | .rcStartEnc => []
  | .rcStartDec => []
  | .rcFlush => []
  | .rcAbort => []
  | .rcEncP bit p => [bit.toNat, p]
  | .rcDecP p => [p]
  | .bcClear => []
  | .bcSet ctx v => [ctx, v.toNat]
  | .bcGet ctx => [ctx]
  | .bcPut t bit ctx => [t, bit.toNat, ctx]
  | .tblBuild t cut alpha => [t, cut, alpha.toNat]
  | .tblWrite t b st v => [t, b.toNat, st, v.toNat]
  | .tblRead t b st => [t, b.toNat, st]
  | .encCtx t bit ctx => [t, bit.toNat, ctx]
  | .decCtx t ctx => [t, ctx]
  | .yccInit np min0 max0 min1 max1 min2 max2 =>
    [np, min0.toNat, max0.toNat, min1.toNat, max1.toNat, min2.toNat, max2.toNat]
  | .yccFwd r g b => [r.toNat, g.toNat, b.toNat]
  | .yccInv y co cg => [y.toNat, co.toNat, cg.toNat]
  | .yccRangeY => []
  | .yccRangeCo y => [y.toNat]
  | .yccRangeCg y co => [y.toNat, co.toNat]

/-- The assembler line of a command (30_encoding R106): the mnemonic, then the operands, comma-separated. -/
def assemblerLine (i : Instr) : String :=
  mnemonicOf i ++ String.join ((operandsOf i).zipIdx.map (fun x => (if x.2 = 0 then " " else ", ") ++ toString x.1))

end Sys2Proof
end

