-- ==== Sys2Proof/Machine/Cells.lean ====
section
/-! DEFINITION. Arrays as lists of (index, value) in one canonical form: indexes strictly rising, and no entry equal to what an unlisted index reads as. -/

namespace Sys2Proof.Machine

/-- The value listed at index `k`, if one is. -/
def cellFind {α : Type} (m : List (Nat × α)) (k : Nat) : Option α :=
  match m with
  | [] => none
  | (j, v) :: rest => if j = k then some v else cellFind rest k

/-- The value at index `k` of an array whose unlisted entries read `d`. -/
def cellGet {α : Type} (d : α) (m : List (Nat × α)) (k : Nat) : α := (cellFind m k).getD d

/-- List `v` at index `k`, in place of what was listed there. -/
def cellPut {α : Type} (m : List (Nat × α)) (k : Nat) (v : α) : List (Nat × α) :=
  match m with
  | [] => [(k, v)]
  | (j, u) :: rest =>
    if k < j then (k, v) :: (j, u) :: rest else if k = j then (k, v) :: rest else (j, u) :: cellPut rest k v

/-- List nothing at index `k`. -/
def cellErase {α : Type} (m : List (Nat × α)) (k : Nat) : List (Nat × α) := m.filter (fun x => !(x.1 == k))

/-- Write `v` at index `k` of an array whose unlisted entries read `d`; writing `d` removes the entry. -/
def cellSet {α : Type} [DecidableEq α] (d : α) (m : List (Nat × α)) (k : Nat) (v : α) : List (Nat × α) :=
  if v = d then cellErase m k else cellPut m k v

/-- A list of values at consecutive indexes from `k`. -/
def cellRow {α : Type} (k : Nat) (vs : List α) : List (Nat × α) :=
  match vs with
  | [] => []
  | v :: rest => (k, v) :: cellRow (k + 1) rest

/-- Replace all that is listed at indexes from `lo` up to but not including `hi` by `new`. -/
def cellBlock {α : Type} (m : List (Nat × α)) (lo hi : Nat) (new : List (Nat × α)) : List (Nat × α) :=
  m.filter (fun x => decide (x.1 < lo)) ++ new ++ m.filter (fun x => decide (hi ≤ x.1))

/-- The indexes are strictly rising. -/
abbrev cellsSorted {α : Type} (m : List (Nat × α)) : Prop := m.Pairwise (fun x y => x.1 < y.1)

/-- The canonical form of an array of `n` entries whose unlisted entries read `d`. -/
abbrev cellsWf {α : Type} [DecidableEq α] (d : α) (n : Nat) (m : List (Nat × α)) : Prop :=
  cellsSorted m ∧ ∀ x ∈ m, x.1 < n ∧ x.2 ≠ d

/-- The canonical form of an array of `n` entries in which an unlisted entry holds no value. -/
abbrev cellsOpenWf {α : Type} (n : Nat) (m : List (Nat × α)) : Prop := cellsSorted m ∧ ∀ x ∈ m, x.1 < n

end Sys2Proof.Machine
end

