-- ==== Sys2Proof/Config.lean ====
section
/-! DEFINITION. The implementation parameters of 00_scope R5, and the two functions an instance may supply that nothing here fixes. -/

namespace Sys2Proof

/-- Which function an instance takes for BUILD_FN or CG_FN (00_scope R5): the spec's default, or one of its own.
`other n` names a function that nothing constrains beyond what the rules require of it (log entry 2). -/
inductive FnChoice where
  | spec
  | other (n : Nat)
deriving DecidableEq, Repr

/-- The implementation parameters of 00_scope R5. They are fixed for an instance; no step changes them. -/
structure Params where
  /-- The bit value whose probability a chance gives (R6): `false` is 0, `true` is 1. -/
  pBit : Bool
  /-- Number of CTX entries, 1 to 65536. -/
  nctx : Nat
  /-- Number of tables, 1 to 16. -/
  ntab : Nat
  /-- Width of the pending counter, 16 to 32. -/
  pendW : Nat
  /-- Largest plane maximum YCC_INIT accepts, 3 to 2^26 - 1. -/
  ycMaxV : Nat
  buildFn : FnChoice
  cgFn : FnChoice
deriving DecidableEq, Repr

/-- The defaults of 00_scope R5. -/
def Params.standard : Params where
  pBit := false
  nctx := 4096
  ntab := 2
  pendW := 32
  ycMaxV := 67108863
  buildFn := .spec
  cgFn := .spec

/-- The legal values of 00_scope R5. -/
structure Params.Legal (p : Params) : Prop where
  nctx_pos : 1 ≤ p.nctx
  nctx_le : p.nctx ≤ 65536
  ntab_pos : 1 ≤ p.ntab
  ntab_le : p.ntab ≤ 16
  pendW_ge : 16 ≤ p.pendW
  pendW_le : p.pendW ≤ 32
  ycMaxV_ge : 3 ≤ p.ycMaxV
  ycMaxV_le : p.ycMaxV ≤ 67108863

/-- Entry `s` of the `up` row (flag `true`) or the `dn` row (flag `false`) that the instance's own builder number `n`
gives for `(cut, alpha)`: any total function of the type of 41_bit_chance R170 (log entry 2). -/
opaque Config.otherBuild : (n cut alpha : Nat) → (up : Bool) → (s : Nat) → BitVec 16

/-- A bound, read as a signed value, that the instance's own oracle number `n` proposes for `min_cg` (flag `false`) or
`max_cg` (flag `true`) at `(par, y, co)`; the oracle widens the tight range to it (42_ycocg R213; log entry 2). -/
opaque Config.otherCg : (n : Nat) → (par y co : Int) → (upper : Bool) → BitVec 32

end Sys2Proof
end

