-- ==== Sys2Proof/Machine/State.lean ====
section
/-! DEFINITION. The state of the block paired with the host's queues (10_state R30, 70_reset_and_hazards R319), as plain data, and the reset state. -/

namespace Sys2Proof.Machine

/-- STATUS.MODE (10_state R36): the session that is open. Value 3 is never held, so it has no name. -/
inductive Mode where
  | idle
  | enc
  | dec
deriving DecidableEq, Repr

/-- The cause codes of 60_exceptions R271. `faultedState` stands in responses only. -/
inductive Cause where
  | noFault
  | illegalCommand
  | streamTruncated
  | modeError
  | badChance
  | badIndex
  | tableUnset
  | badParam
  | notAttached
  | yccDomain
  | pendingOverflow
  | readOnly
  | faultedState
deriving DecidableEq, Repr

/-- A response of the block (20_memory R72). -/
inductive Response where
  | ok (results : List Word)
  | fault (cause : Cause)
deriving DecidableEq, Repr

/-- Where a command that holds in ReadByte goes on (20_memory R74). -/
inductive HoldPoint where
  /-- RC_START_DEC (40_range_coder R129): `left` bytes of its window are still to be read. -/
  | startDec (left : Nat)
  /-- DecRefill (40_range_coder R127) inside a decode that chose `bit`: RC_DEC_P has no `update`, DEC_CTX has the
  context entry it will write and the next state it will write there (41_bit_chance R169). -/
  | refill (bit : Bool) (update : Option (Nat × BitVec 12))
deriving DecidableEq, Repr

/-- The command in progress while it holds: its command word, for FAULT_INFO (60_exceptions R272), and its point. -/
structure Hold where
  word : Word
  point : HoldPoint
deriving DecidableEq, Repr

/-- The states in which the machine stops. A fault of the spec (60_exceptions R272) is none of these: it is a next state. -/
inductive Fault where
  /-- Raised by RC_ENC_P and ENC_CTX through EncRenorm (40_range_coder R125) when RC_RANGE is 0, where that loop never
  ends. Safe: the model stops where the rules never finish, and 10_state R52 rules the state out
  (log entry 9). -/
  | encRenormHang
deriving DecidableEq, Repr

/-- The refusals of the model. -/
inductive Refusal where
  /-- Raised by an arm of `exec` whose instruction has no meaning yet; no arm is in that case. Safe: the model stops. -/
  | notModelled (mnemonic : String)
deriving DecidableEq, Repr

/-- The block's registers and arrays (10_state R35 to R51), the command it may be holding (20_memory R74), and the host
side of its ports (20_memory R71 to R75). Sparse arrays list (index, value) with indexes rising and leave out what
an unlisted index reads as (log entry 8). -/
structure State where
  /-- The instance parameters (00_scope R5); the model's own field, changed by no step (log entry 1). -/
  cfg : Params
  /-- STATUS.MODE (R36). -/
  mode : Mode
  /-- STATUS.FAULTED (R36). -/
  faulted : Bool
  /-- STATUS.ATTACHED (R36). -/
  attached : Bool
  /-- STATUS.CAUSE (R36). -/
  cause : Cause
  /-- CTRL (R37). -/
  ctrl : Word
  /-- FAULT_INFO (R38). -/
  faultInfo : Word
  /-- BYTES_IN (R39). -/
  bytesIn : Word
  /-- BYTES_OUT (R40). -/
  bytesOut : Word
  /-- RC_LOW (R43). -/
  rcLow : Word
  /-- RC_RANGE (R44). -/
  rcRange : Word
  /-- RC_DELAYED (R45), `none` for NONE. -/
  rcDelayed : Option Byte
  /-- RC_PENDING (R46), below 2^PEND_W. -/
  rcPending : Word
  /-- YC_PAR (R47). -/
  ycPar : Word
  /-- YC_MAX0 (R48). -/
  ycMax0 : Word
  /-- YC_MAX1 (R48). -/
  ycMax1 : Word
  /-- YC_MAX2 (R48). -/
  ycMax2 : Word
  /-- TBL_CUT (R49), by table number; unlisted reads 0. -/
  tblCut : List (Nat × Word)
  /-- TBL_ALPHA (R49), by table number; unlisted reads 0. -/
  tblAlpha : List (Nat × Word)
  /-- CTX (R50), by index; unlisted reads 0x800. -/
  ctx : List (Nat × BitVec 12)
  /-- TBL (R51), by `8192 t + 4096 b + s`; unlisted is UNSET. -/
  tbl : List (Nat × BitVec 16)
  /-- The command holding in ReadByte (20_memory R74), if one is. -/
  hold : Option Hold
  /-- The words the host has sent and the block has not taken (20_memory R71). -/
  cmd : List Word
  /-- The unread bytes of the source (20_memory R73). -/
  src : List Byte
  /-- `src_eof` (20_memory R73). -/
  srcEof : Bool
  /-- The bytes written to the sink, first written first (20_memory R75). -/
  snk : List Byte
  /-- The responses returned, first returned first (20_memory R72). -/
  resp : List Response
deriving DecidableEq, Repr

/-- The machine right after reset (70_reset_and_hazards R301), with the default parameters (00_scope R5), no word sent
and nothing on the byte ports (log entries 1 and 7). -/
def State.reset : State where
  cfg := Params.standard
  mode := .idle
  faulted := false
  attached := false
  cause := .noFault
  ctrl := 0x00000001
  faultInfo := 0
  bytesIn := 0
  bytesOut := 0
  rcLow := 0
  rcRange := 0x01000000
  rcDelayed := none
  rcPending := 0
  ycPar := 0
  ycMax0 := 0
  ycMax1 := 0
  ycMax2 := 0
  tblCut := []
  tblAlpha := []
  ctx := []
  tbl := []
  hold := none
  cmd := []
  src := []
  srcEof := false
  snk := []
  resp := []

end Sys2Proof.Machine
end

