-- ==== Sys2Proof/Machine/Flags.lean ====
section
/-! DEFINITION. The flag register STATUS and the constant register CONFIG as the words software reads (10_state R36, R42). -/

namespace Sys2Proof.Machine

/-- The code of a mode in STATUS[1:0] (10_state R36). -/
def modeCode (m : Mode) : Nat :=
  match m with
  | .idle => 0
  | .enc => 1
  | .dec => 2

/-- The code of a cause (60_exceptions R271). -/
def causeCode (c : Cause) : Nat :=
  match c with
  | .noFault => 0
  | .illegalCommand => 1
  | .streamTruncated => 2
  | .modeError => 3
  | .badChance => 4
  | .badIndex => 5
  | .tableUnset => 6
  | .badParam => 7
  | .notAttached => 8
  | .yccDomain => 9
  | .pendingOverflow => 10
  | .readOnly => 11
  | .faultedState => 15

/-- STATUS (10_state R36): MODE in [1:0], FAULTED in [2], ATTACHED in [3], CAUSE in [11:8], the rest 0. -/
def statusWord (s : State) : Word :=
  BitVec.ofNat 32 (modeCode s.mode + s.faulted.toNat * 2 ^ 2 + s.attached.toNat * 2 ^ 3 + causeCode s.cause * 2 ^ 8)

/-- CTRL.CLIP (10_state R37). -/
def clipFlag (s : State) : Bool := s.ctrl.toNat % 2 == 1

/-- ID (10_state R41). -/
def idWord : Word := 0x464C4946

/-- CONFIG (10_state R42): NCTX - 1 in [31:16], NTAB - 1 in [4:1], P_BIT in [0]. -/
def configWord (p : Params) : Word :=
  BitVec.ofNat 32 ((p.nctx - 1) % 2 ^ 16 * 2 ^ 16 + (p.ntab - 1) % 2 ^ 4 * 2 + p.pBit.toNat)

/-- RC_DELAYED as a word (10_state R45): NONE reads 0xFFFFFFFF, a byte reads zero-extended. -/
def delayedWord (d : Option Byte) : Word :=
  match d with
  | none => 0xFFFFFFFF
  | some b => BitVec.ofNat 32 b.toNat

end Sys2Proof.Machine
end

