-- ==== Sys2Proof/Machine/Operands.lean ====
section
/-! DEFINITION. How operands and results are read and returned: signed words, floor arithmetic, clipping (00_scope R8, R9). -/

namespace Sys2Proof.Machine

/-- `as_i32` (00_scope R8). -/
def asI32 (w : Word) : Int := w.toInt

/-- `as_u32` (00_scope R8). -/
def asU32 (v : Int) : Word := BitVec.ofInt 32 v

/-- A result given as an unsigned number, as a word (30_encoding R93). -/
def asWord (n : Nat) : Word := BitVec.ofNat 32 n

/-- A bit result (30_encoding R93): `zext_32` of the bit. -/
def bitWord (b : Bool) : Word := BitVec.ofNat 32 b.toNat

/-- `v >> n` on an integer (00_scope R9): the floor of `v / 2^n`. -/
def shiftRightFloor (v : Int) (n : Nat) : Int := v / 2 ^ n

/-- `clip(v, lo, hi)` (00_scope R9). -/
def clipInt (v lo hi : Int) : Int := min (max v lo) hi

/-- The value fits in a signed 32-bit word. -/
def fitsI32 (v : Int) : Bool := decide (-2 ^ 31 ≤ v ∧ v ≤ 2 ^ 31 - 1)

/-- The value lies in `[0, m]`. -/
def inRange (v m : Int) : Bool := decide (0 ≤ v ∧ v ≤ m)

end Sys2Proof.Machine
end

