-- ==== Sys2Proof/Machine/Ops.lean ====
section
/-! DEFINITION. The named operations on the state: responses, fault entry, the byte ports, the register map, CTX and TBL. Every meaning is written over these. -/

namespace Sys2Proof.Machine

/-- What a meaning answers. -/
abbrev Result := Host.Outcome State Fault Refusal

/-! ### Responses and fault entry -/

/-- Return `OK(ws)` on the response port (20_memory R72). -/
def respondOk (ws : List Word) (s : State) : State := { s with resp := s.resp ++ [.ok ws] }

/-- Fault entry (60_exceptions R272): the command whose word is `w` raises `c`. The first fault sets FAULTED, CAUSE and
FAULT_INFO; a later one is not recorded; the response is `FAULT(c)`. -/
def takeFault (w : Word) (c : Cause) (s : State) : State :=
  { s with
    faulted := true
    cause := if s.faulted then s.cause else c
    faultInfo := if s.faulted then s.faultInfo else w
    resp := s.resp ++ [.fault c] }

/-- The command ends with `OK(ws)`. -/
def answer (ws : List Word) (s : State) : Result := .next (respondOk ws s)

/-- `raise F(c)` (00_scope R10) by the command whose word is `w`. -/
def raiseFault (w : Word) (c : Cause) (s : State) : Result := .next (takeFault w c s)

/-- The check of 60_exceptions R273 and R276 item 2, which every command but NOP and REG_READ makes first. -/
def unlessFaulted (w : Word) (s : State) (body : Result) : Result :=
  if s.faulted then raiseFault w .faultedState s else body

/-! ### Ports -/

/-- Take the words of a command off the command port (20_memory R71). -/
def takeWords (rest : List Word) (s : State) : State := { s with cmd := rest }

/-- `WriteByte` for each byte of `bs` in turn (20_memory R75). -/
def writeBytes (bs : List Byte) (s : State) : State :=
  { s with snk := s.snk ++ bs, bytesOut := s.bytesOut + BitVec.ofNat 32 bs.length }

/-- The effect of a `ReadByte` that finds a byte: `rest` is what stays in the source (20_memory R73). -/
def takeByte (rest : List Byte) (s : State) : State := { s with src := rest, bytesIn := s.bytesIn + 1 }

/-- `ReadByte` (20_memory R73) as far as the source has a byte; `none` when it is empty, where `src_eof` decides
between STREAM_TRUNCATED and a hold. -/
def readByte (s : State) : Option (Byte × State) :=
  match s.src with
  | [] => none
  | b :: rest => some (b, takeByte rest s)

/-- Set or clear the command in progress (20_memory R74). -/
def setHold (h : Option Hold) (s : State) : State := { s with hold := h }

/-! ### Registers -/

/-- Set STATUS.MODE (10_state R36). -/
def setMode (m : Mode) (s : State) : State := { s with mode := m }

/-- Set RC_LOW and RC_RANGE (10_state R43, R44). The rules keep both below 2^32 (log entry 10). -/
def setInterval (low range : Nat) (s : State) : State :=
  { s with rcLow := BitVec.ofNat 32 low, rcRange := BitVec.ofNat 32 range }

/-- Set RC_DELAYED and RC_PENDING (10_state R45, R46). -/
def setCarry (d : Option Byte) (n : Word) (s : State) : State := { s with rcDelayed := d, rcPending := n }

/-- Set CTRL (10_state R37). -/
def setCtrl (w : Word) (s : State) : State := { s with ctrl := w }

/-- Set ATTACHED, YC_PAR and YC_MAX0 to YC_MAX2 (10_state R36, R47, R48). -/
def setColour (a : Bool) (par max0 max1 max2 : Word) (s : State) : State :=
  { s with attached := a, ycPar := par, ycMax0 := max0, ycMax1 := max1, ycMax2 := max2 }

/-- TBL_CUT[t] (10_state R49). -/
def tblCutOf (s : State) (t : Nat) : Word := cellGet 0 s.tblCut t

/-- TBL_ALPHA[t] (10_state R49). -/
def tblAlphaOf (s : State) (t : Nat) : Word := cellGet 0 s.tblAlpha t

/-- The registers below 0x10 of the map of 10_state R35. -/
def csrFixed (s : State) (n : Nat) : Option Word :=
  match n with
  | 0x00 => some idWord
  | 0x01 => some (configWord s.cfg)
  | 0x02 => some (statusWord s)
  | 0x03 => some s.ctrl
  | 0x04 => some s.faultInfo
  | 0x05 => some s.bytesIn
  | 0x06 => some s.bytesOut
  | 0x07 => some s.rcLow
  | 0x08 => some s.rcRange
  | 0x09 => some (delayedWord s.rcDelayed)
  | 0x0A => some s.rcPending
  | 0x0B => some s.ycPar
  | 0x0C => some s.ycMax0
  | 0x0D => some s.ycMax1
  | 0x0E => some s.ycMax2
  | _ => none

/-- The value of register `n`, `none` where the map of 10_state R35 has none. -/
def csrRead (s : State) (n : Nat) : Option Word :=
  if n < 0x10 then csrFixed s n
  else if n < 0x10 + s.cfg.ntab then some (tblCutOf s (n - 0x10))
  else if 0x20 ≤ n ∧ n < 0x20 + s.cfg.ntab then some (tblAlphaOf s (n - 0x20))
  else none

/-! ### CTX and TBL -/

/-- CTX[i] (10_state R50). -/
def ctxRead (s : State) (i : Nat) : BitVec 12 := cellGet 0x800 s.ctx i

/-- `CTX[i] <- v` (10_state R50). -/
def ctxWrite (i : Nat) (v : BitVec 12) (s : State) : State := { s with ctx := cellSet 0x800 s.ctx i v }

/-- Every entry of CTX to 0x800 (41_bit_chance R163): no entry is listed. -/
def ctxClear (s : State) : State := { s with ctx := [] }

/-- The place of TBL[t][b][st] in the list. -/
def tblKey (t : Nat) (b : Bool) (st : Nat) : Nat := 8192 * t + 4096 * b.toNat + st

/-- TBL[t][b][st] (10_state R51), `none` for UNSET. -/
def tblEntry (s : State) (t : Nat) (b : Bool) (st : Nat) : Option (BitVec 16) := cellFind s.tbl (tblKey t b st)

/-- `TBL[t][b][st] <- v` (10_state R51). -/
def tblPut (t : Nat) (b : Bool) (st : Nat) (v : BitVec 16) (s : State) : State :=
  { s with tbl := cellPut s.tbl (tblKey t b st) v }

/-- Both rows of table `t` at once (41_bit_chance R172): `row0` for bit 0, `row1` for bit 1. -/
def tblLoad (t : Nat) (row0 row1 : List (BitVec 16)) (s : State) : State :=
  { s with
    tbl := cellBlock s.tbl (tblKey t false 0) (tblKey (t + 1) false 0)
      (cellRow (tblKey t false 0) row0 ++ cellRow (tblKey t true 0) row1) }

/-- Set TBL_CUT[t] and TBL_ALPHA[t] (10_state R49). -/
def setTblParams (t : Nat) (cut alpha : Word) (s : State) : State :=
  { s with tblCut := cellSet 0 s.tblCut t cut, tblAlpha := cellSet 0 s.tblAlpha t alpha }

end Sys2Proof.Machine
end

