-- ==== Sys2Proof/Machine/RangeCoder.lean ====
section
/-! DEFINITION. The range coder: its shared functions (40_range_coder R120 to R127) and its commands (R128 to R133). -/

namespace Sys2Proof.Machine

/-- MIN_RANGE (40_range_coder R120). -/
def minRange : Nat := 65536

/-- `MIN_RANGE - 1`, which RC_FLUSH adds to the interval and sets as its width (40_range_coder R132). -/
def flushRange : Nat := 65535

/-- BASE_RANGE (40_range_coder R120). -/
def baseRange : Nat := 16777216

/-- Chance scaling in the split form of 40_range_coder R121. -/
def chance (p range : Nat) : Nat := (range % 4096 * p + 2048) / 4096 + range / 4096 * p

/-! ### Encoding -/

/-- How an encoding operation ends. -/
inductive EncEnd where
  /-- It finished. -/
  | done (s : State)
  /-- It raised PENDING_OVERFLOW in the state given (40_range_coder R125). -/
  | overflow (s : State)
  /-- The loop of 40_range_coder R125 never ends, which needs RC_RANGE = 0 (log entry 9). -/
  | hang
deriving DecidableEq, Repr

/-- The last two lines of the loop of 40_range_coder R125: shift the interval up one byte. -/
def shiftInterval (s : State) : State := setInterval (s.rcLow.toNat % 2 ^ 16 * 2 ^ 8) (s.rcRange.toNat * 2 ^ 8) s

/-- The byte the loop of 40_range_coder R125 takes from RC_LOW. -/
def topByte (s : State) : Byte := BitVec.ofNat 8 (s.rcLow.toNat / 2 ^ 16)

/-- Write the resolved delayed byte and the pending bytes, each of value `fill`; delay the byte `next`
(40_range_coder R125, second and third branch). -/
def emitDelayed (resolved fill next : Byte) (s : State) : State :=
  setCarry (some next) 0 (writeBytes (resolved :: List.replicate s.rcPending.toNat fill) s)

/-- One iteration of the loop of 40_range_coder R125; `none` is PENDING_OVERFLOW. -/
def encShift (s : State) : Option State :=
  match s.rcDelayed with
  | none => some (shiftInterval (setCarry (some (topByte s)) s.rcPending s))
  | some d =>
    if s.rcLow.toNat + s.rcRange.toNat < 2 ^ 24 then some (shiftInterval (emitDelayed d 0xFF (topByte s) s))
    else if 2 ^ 24 ≤ s.rcLow.toNat then some (shiftInterval (emitDelayed (d + 1) 0x00 (topByte s) s))
    else if s.rcPending.toNat = 2 ^ s.cfg.pendW - 1 then none
    else some (shiftInterval (setCarry (some d) (s.rcPending + 1) s))

/-- EncRenorm (40_range_coder R125), at most `fuel` iterations. Three are enough for any RC_RANGE but 0, since each
multiplies it by 256; at 0 the loop never ends. -/
def encRenorm (fuel : Nat) (s : State) : EncEnd :=
  if minRange < s.rcRange.toNat then .done s
  else
    match fuel with
    | 0 => .hang
    | n + 1 =>
      match encShift s with
      | none => .overflow s
      | some s' => encRenorm n s'

/-- The interval of a bit (40_range_coder R124, before EncRenorm): P_BIT takes the top `Chance(p, range)`. -/
def encSplit (p : Nat) (bit : Bool) (s : State) : State :=
  let low := s.rcLow.toNat
  let range := s.rcRange.toNat
  let c := chance p range
  if bit = s.cfg.pBit then setInterval (low + (range - c)) c s else setInterval low (range - c) s

/-- EncodeBit (40_range_coder R124). -/
def encodeBit (p : Nat) (bit : Bool) (s : State) : EncEnd := encRenorm 3 (encSplit p bit s)

/-- The answer of a command whose encoding ended in `e`; `after` is what it still does before it answers. -/
def finishEnc (w : Word) (e : EncEnd) (after : State → State) : Result :=
  match e with
  | .done s => answer [] (after s)
  | .overflow s => raiseFault w .pendingOverflow s
  | .hang => .fault .encRenormHang

/-- Go on with `f` where an encoding operation finished. -/
def thenEnc (e : EncEnd) (f : State → EncEnd) : EncEnd :=
  match e with
  | .done s => f s
  | .overflow s => .overflow s
  | .hang => .hang

/-- One of the shifts of RC_FLUSH (40_range_coder R132). -/
def flushShift (s : State) : EncEnd := encRenorm 3 (setInterval s.rcLow.toNat flushRange s)

/-- The shifts of RC_FLUSH (40_range_coder R132), `n` of them. -/
def flushShifts (n : Nat) (s : State) : EncEnd :=
  match n with
  | 0 => .done s
  | k + 1 => thenEnc (flushShift s) (flushShifts k)

/-! ### Decoding -/

/-- `RC_LOW <- (RC_LOW << 8) | b` (40_range_coder R127, R129); the low 8 bits are 0 after the shift, so the OR is a sum. -/
def pushLow (b : Byte) (s : State) : State := setInterval (s.rcLow.toNat * 2 ^ 8 + b.toNat) s.rcRange.toNat s

/-- One iteration of the loop of 40_range_coder R127 with the byte it read. -/
def refillShift (b : Byte) (s : State) : State :=
  setInterval (s.rcLow.toNat * 2 ^ 8 + b.toNat) (s.rcRange.toNat * 2 ^ 8) s

/-- DecRefill (40_range_coder R127) as far as the bytes of the source go; called with those bytes. It has finished when
RC_RANGE is above MIN_RANGE, and otherwise the next `ReadByte` found the source empty. -/
def decRefill (bytes : List Byte) (s : State) : State :=
  match bytes with
  | [] => s
  | b :: rest => if minRange < s.rcRange.toNat then s else decRefill rest (refillShift b (takeByte rest s))

/-- The bit DecodeBit finds (40_range_coder R126). -/
def decBit (p : Nat) (s : State) : Bool :=
  if s.rcRange.toNat - chance p s.rcRange.toNat ≤ s.rcLow.toNat then s.cfg.pBit else !s.cfg.pBit

/-- The interval of the bit DecodeBit finds (40_range_coder R126, before DecRefill). -/
def decSplit (p : Nat) (s : State) : State :=
  let low := s.rcLow.toNat
  let range := s.rcRange.toNat
  let c := chance p range
  if range - c ≤ low then setInterval (low - (range - c)) c s else setInterval low (range - c) s

/-- The context update of DEC_CTX (41_bit_chance R169), none for RC_DEC_P. -/
def applyUpdate (u : Option (Nat × BitVec 12)) (s : State) : State :=
  match u with
  | none => s
  | some (i, v) => ctxWrite i v s

/-- How a decode ends once DecRefill has used the bytes there are: it answers its bit, or faults, or holds
(20_memory R73, R74; 40_range_coder R127; 41_bit_chance R169). -/
def settleDecode (w : Word) (bit : Bool) (u : Option (Nat × BitVec 12)) (s : State) : State :=
  if minRange < s.rcRange.toNat then respondOk [bitWord bit] (applyUpdate u (setHold none s))
  else if s.srcEof then takeFault w .streamTruncated (setHold none s)
  else setHold (some ⟨w, .refill bit u⟩) s

/-- DecodeBit (40_range_coder R126) and the end of the command that called it. -/
def decodeWith (w : Word) (p : Nat) (next : Bool → Option (Nat × BitVec 12)) (s : State) : State :=
  settleDecode w (decBit p s) (next (decBit p s)) (decRefill s.src (decSplit p s))

/-- The reads of RC_START_DEC (40_range_coder R129), `n` of them, as far as the source has bytes: how many are left,
and the state. -/
def fillWindow (n : Nat) (s : State) : Nat × State :=
  match n with
  | 0 => (0, s)
  | k + 1 =>
    match readByte s with
    | none => (k + 1, s)
    | some (b, s') => fillWindow k (pushLow b s')

/-- How RC_START_DEC ends (40_range_coder R129; 20_memory R73, R74). -/
def settleStart (w : Word) (r : Nat × State) : State :=
  if r.1 = 0 then respondOk [] (setMode .dec (setHold none r.2))
  else if r.2.srcEof then takeFault w .streamTruncated (setHold none r.2)
  else setHold (some ⟨w, .startDec r.1⟩) r.2

/-- A held command goes on from the point where it stopped (20_memory R74). -/
def resumeHold (h : Hold) (s : State) : State :=
  match h.point with
  | .startDec left => settleStart h.word (fillWindow left s)
  | .refill bit u => settleDecode h.word bit u (decRefill s.src s)

/-! ### Commands -/

/-- RC_START_ENC (40_range_coder R128). -/
def execRcStartEnc (s : State) : Result :=
  unlessFaulted (encodeWord .rcStartEnc) s <|
    answer [] (setCarry none 0 (setInterval 0 baseRange { setMode .enc s with bytesOut := 0 }))

/-- RC_START_DEC (40_range_coder R129). -/
def execRcStartDec (s : State) : Result :=
  let w := encodeWord .rcStartDec
  unlessFaulted w s <|
    .next (settleStart w (fillWindow 3 (setCarry none 0 (setInterval 0 baseRange { setMode .idle s with bytesIn := 0 }))))

/-- RC_ENC_P (40_range_coder R130). -/
def execRcEncP (bit : Bool) (p : Nat) (s : State) : Result :=
  let w := encodeWord (.rcEncP bit p)
  unlessFaulted w s <|
    if s.mode ≠ .enc then raiseFault w .modeError s
    else if p = 0 then raiseFault w .badChance s
    else finishEnc w (encodeBit p bit s) id

/-- RC_DEC_P (40_range_coder R131). -/
def execRcDecP (p : Nat) (s : State) : Result :=
  let w := encodeWord (.rcDecP p)
  unlessFaulted w s <|
    if s.mode ≠ .dec then raiseFault w .modeError s
    else if p = 0 then raiseFault w .badChance s
    else .next (decodeWith w p (fun _ => none) s)

/-- RC_FLUSH (40_range_coder R132). -/
def execRcFlush (s : State) : Result :=
  let w := encodeWord .rcFlush
  unlessFaulted w s <|
    if s.mode ≠ .enc then raiseFault w .modeError s
    else finishEnc w (flushShifts 4 (setInterval (s.rcLow.toNat + flushRange) s.rcRange.toNat s)) (setMode .idle)

/-- RC_ABORT (40_range_coder R133). -/
def execRcAbort (s : State) : Result :=
  unlessFaulted (encodeWord .rcAbort) s <| answer [] (setMode .idle s)

end Sys2Proof.Machine
end

