-- ==== Sys2Proof/Machine/BitChance.lean ====
section
/-! DEFINITION. The context commands and the adaptive coding commands (41_bit_chance R163 to R169). -/

namespace Sys2Proof.Machine

/-- A table entry is a chance, in [1, 4095] (41_bit_chance R167). -/
def isChance (v : BitVec 16) : Bool := decide (1 ≤ v.toNat ∧ v.toNat ≤ 4095)

/-- CheckNext (41_bit_chance R167) for table `t` and state `st`: both rows' next states, or the fault. -/
def checkNext (s : State) (t : Nat) (st : BitVec 12) : Except Cause (BitVec 12 × BitVec 12) :=
  match tblEntry s t false st.toNat, tblEntry s t true st.toNat with
  | some v0, some v1 => if isChance v0 && isChance v1 then .ok (v0.setWidth 12, v1.setWidth 12) else .error .badChance
  | some _, none => .error .tableUnset
  | none, some _ => .error .tableUnset
  | none, none => .error .tableUnset

/-- The next state of the row of `bit` (41_bit_chance R161). -/
def nextOf (n : BitVec 12 × BitVec 12) (bit : Bool) : BitVec 12 := if bit then n.2 else n.1

/-- The index check of the commands with a table and a context (60_exceptions R276 item 3). -/
def indexOk (s : State) (t ctx : Nat) : Bool := decide (t < s.cfg.ntab ∧ ctx < s.cfg.nctx)

/-- BC_CLEAR (41_bit_chance R163). -/
def execBcClear (s : State) : Result :=
  unlessFaulted (encodeWord .bcClear) s <| answer [] (ctxClear s)

/-- BC_SET (41_bit_chance R164). -/
def execBcSet (ctx : Nat) (value : Word) (s : State) : Result :=
  let w := encodeWord (.bcSet ctx value)
  unlessFaulted w s <|
    if s.cfg.nctx ≤ ctx then raiseFault w .badIndex s
    else if value.toNat < 1 ∨ 4095 < value.toNat then raiseFault w .badParam s
    else answer [] (ctxWrite ctx (value.setWidth 12) s)

/-- BC_GET (41_bit_chance R165). -/
def execBcGet (ctx : Nat) (s : State) : Result :=
  let w := encodeWord (.bcGet ctx)
  unlessFaulted w s <|
    if s.cfg.nctx ≤ ctx then raiseFault w .badIndex s
    else answer [asWord (ctxRead s ctx).toNat] s

/-- BC_PUT (41_bit_chance R166). -/
def execBcPut (t : Nat) (bit : Bool) (ctx : Nat) (s : State) : Result :=
  let w := encodeWord (.bcPut t bit ctx)
  unlessFaulted w s <|
    if !indexOk s t ctx then raiseFault w .badIndex s
    else
      match checkNext s t (ctxRead s ctx) with
      | .error c => raiseFault w c s
      | .ok n => answer [] (ctxWrite ctx (nextOf n bit) s)

/-- ENC_CTX (41_bit_chance R168). -/
def execEncCtx (t : Nat) (bit : Bool) (ctx : Nat) (s : State) : Result :=
  let w := encodeWord (.encCtx t bit ctx)
  unlessFaulted w s <|
    if !indexOk s t ctx then raiseFault w .badIndex s
    else if s.mode ≠ .enc then raiseFault w .modeError s
    else
      match checkNext s t (ctxRead s ctx) with
      | .error c => raiseFault w c s
      | .ok n => finishEnc w (encodeBit (ctxRead s ctx).toNat bit s) (ctxWrite ctx (nextOf n bit))

/-- DEC_CTX (41_bit_chance R169). -/
def execDecCtx (t ctx : Nat) (s : State) : Result :=
  let w := encodeWord (.decCtx t ctx)
  unlessFaulted w s <|
    if !indexOk s t ctx then raiseFault w .badIndex s
    else if s.mode ≠ .dec then raiseFault w .modeError s
    else
      match checkNext s t (ctxRead s ctx) with
      | .error c => raiseFault w c s
      | .ok n => .next (decodeWith w (ctxRead s ctx).toNat (fun bit => some (ctx, nextOf n bit)) s)

end Sys2Proof.Machine
end

