-- ==== Sys2Proof/Machine/Colour.lean ====
section
/-! DEFINITION. The YCoCg transform and its range oracle (42_ycocg), on mathematical integers. -/

namespace Sys2Proof.Machine

/-- Three integers: a pixel or its transform. -/
structure Triple where
  x : Int
  y : Int
  z : Int
deriving DecidableEq, Repr

/-- Fwd (42_ycocg R202), with the grouping of R203: (R, G, B) to (Y, Co, Cg). -/
def yccForward (r g b : Int) : Triple :=
  let s := shiftRightFloor (r + b) 1
  ⟨shiftRightFloor (s + g) 1, r - b - 1, s - g - 1⟩

/-- Inv (42_ycocg R204): (Y, Co, Cg) to (R, G, B). -/
def yccInverse (y co cg : Int) : Triple :=
  ⟨y + shiftRightFloor (cg + 2) 1 + shiftRightFloor (co + 2) 1,
   y - shiftRightFloor (cg + 1) 1,
   y + shiftRightFloor (cg + 2) 1 - shiftRightFloor (co + 1) 1⟩

/-- `min_co` (42_ycocg R209). -/
def minCo (par y : Int) : Int :=
  if y < par - 1 then -4 - 4 * y else if 3 * par ≤ y then 3 + 4 * (y - 4 * par) else -4 * par

/-- `max_co` (42_ycocg R209). -/
def maxCo (par y : Int) : Int :=
  if y < par - 1 then 2 + 4 * y else if 3 * par ≤ y then 4 * par - 5 - 4 * (y - 3 * par) else 4 * par - 2

/-- `co` lies in the window of `y` (42_ycocg R212). -/
def coValid (par y co : Int) : Bool := decide (minCo par y ≤ co ∧ co ≤ maxCo par y)

/-- `min_cg` inside the window (42_ycocg R214). -/
def tightMinCg (par y co : Int) : Int :=
  let k : Int := 2 * (|co + 1| / 2)
  max (-2 - 2 * y + k) (2 * y - 8 * par + 1)

/-- `max_cg` inside the window (42_ycocg R214). -/
def tightMaxCg (par y co : Int) : Int :=
  let c : Int := 2 * ((|co + 1| + 1) / 2)
  min (2 * y) (8 * par - 3 - 2 * y - c)

/-- CG_FN (42_ycocg R212 to R214): the sentinel outside the window, the tight range inside it. An instance's own oracle
widens the tight range to its own bounds, which is what R213 allows (log entry 2). -/
def cgRange (f : FnChoice) (par y co : Int) : Int × Int :=
  if coValid par y co then
    match f with
    | .spec => (tightMinCg par y co, tightMaxCg par y co)
    | .other n =>
      (min (tightMinCg par y co) (asI32 (Config.otherCg n par y co false)),
       max (tightMaxCg par y co) (asI32 (Config.otherCg n par y co true)))
  else (8 * par, -8 * par)

/-- `par` (42_ycocg R200): YC_PAR as a number. -/
def parOf (s : State) : Int := s.ycPar.toNat

/-- The planes YCC_INIT accepts (42_ycocg R201). -/
def planeOk (lo hi : Int) : Bool := decide (0 ≤ lo ∧ lo < hi)

/-- YCC_INIT (42_ycocg R201). A refusal to attach is an answer, not a fault. -/
def execYccInit (np : Nat) (min0 max0 min1 max1 min2 max2 : Word) (s : State) : Result :=
  let w := encodeWord (.yccInit np min0 max0 min1 max1 min2 max2)
  unlessFaulted w s <|
    if decide (3 ≤ np) && planeOk (asI32 min0) (asI32 max0) && planeOk (asI32 min1) (asI32 max1) &&
        planeOk (asI32 min2) (asI32 max2) then
      let top := max (max (asI32 max0) (asI32 max1)) (asI32 max2)
      if (s.cfg.ycMaxV : Int) < top then raiseFault w .yccDomain s
      else answer [1] (setColour true (asU32 (top / 4 + 1)) max0 max1 max2 s)
    else answer [0] (setColour false 0 0 0 0 s)

/-- YCC_FWD (42_ycocg R206). -/
def execYccFwd (r g b : Word) (s : State) : Result :=
  let w := encodeWord (.yccFwd r g b)
  unlessFaulted w s <|
    if !s.attached then raiseFault w .notAttached s
    else if !(inRange (asI32 r) s.ycMax0.toNat && inRange (asI32 g) s.ycMax1.toNat && inRange (asI32 b) s.ycMax2.toNat) then
      raiseFault w .yccDomain s
    else
      let v := yccForward (asI32 r) (asI32 g) (asI32 b)
      answer [asU32 v.x, asU32 v.y, asU32 v.z] s

/-- YCC_INV (42_ycocg R207). -/
def execYccInv (y co cg : Word) (s : State) : Result :=
  let w := encodeWord (.yccInv y co cg)
  unlessFaulted w s <|
    if !s.attached then raiseFault w .notAttached s
    else
      let v := yccInverse (asI32 y) (asI32 co) (asI32 cg)
      if clipFlag s then
        answer [asU32 (clipInt v.x 0 s.ycMax0.toNat), asU32 (clipInt v.y 0 s.ycMax1.toNat),
          asU32 (clipInt v.z 0 s.ycMax2.toNat)] s
      else if !(fitsI32 v.x && fitsI32 v.y && fitsI32 v.z) then raiseFault w .yccDomain s
      else answer [asU32 v.x, asU32 v.y, asU32 v.z] s

/-- YCC_RANGE_Y (42_ycocg R210). -/
def execYccRangeY (s : State) : Result :=
  let w := encodeWord .yccRangeY
  unlessFaulted w s <|
    if !s.attached then raiseFault w .notAttached s
    else answer [0, asU32 (4 * parOf s - 1)] s

/-- YCC_RANGE_CO (42_ycocg R211). -/
def execYccRangeCo (y : Word) (s : State) : Result :=
  let w := encodeWord (.yccRangeCo y)
  unlessFaulted w s <|
    if !s.attached then raiseFault w .notAttached s
    else if !inRange (asI32 y) (4 * parOf s - 1) then raiseFault w .yccDomain s
    else answer [asU32 (minCo (parOf s) (asI32 y)), asU32 (maxCo (parOf s) (asI32 y))] s

/-- YCC_RANGE_CG (42_ycocg R215). -/
def execYccRangeCg (y co : Word) (s : State) : Result :=
  let w := encodeWord (.yccRangeCg y co)
  unlessFaulted w s <|
    if !s.attached then raiseFault w .notAttached s
    else if !inRange (asI32 y) (4 * parOf s - 1) then raiseFault w .yccDomain s
    else
      let r := cgRange s.cfg.cgFn (parOf s) (asI32 y) (asI32 co)
      answer [asU32 r.1, asU32 r.2] s

end Sys2Proof.Machine
end

