-- ==== Sys2Proof/Machine/Control.lean ====
section
/-! DEFINITION. The control and register commands (43_control). -/

namespace Sys2Proof.Machine

/-- NOP (43_control R250); it runs in the faulted state too (60_exceptions R273). -/
def execNop (s : State) : Result := answer [] s

/-- REG_READ (43_control R251); it runs in the faulted state too (60_exceptions R273). -/
def execRegRead (csr : Nat) (s : State) : Result :=
  match csrRead s csr with
  | none => raiseFault (encodeWord (.regRead csr)) .badIndex s
  | some v => answer [v] s

/-- REG_WRITE (43_control R252). -/
def execRegWrite (csr : Nat) (value : Word) (s : State) : Result :=
  let w := encodeWord (.regWrite csr value)
  unlessFaulted w s <|
    if csrRead s csr = none then raiseFault w .badIndex s
    else if csr ≠ 0x03 then raiseFault w .readOnly s
    else if value.toNat / 2 ≠ 0 then raiseFault w .badParam s
    else answer [] (setCtrl value s)

end Sys2Proof.Machine
end

