-- ==== Sys2Proof/Machine/Tables.lean ====
section
/-! DEFINITION. The transition tables: their construction (41_bit_chance R170, R171) and their commands (R172 to R174). -/

namespace Sys2Proof.Machine

/-- `p + (((ONE - p) * alpha + ONE/2) >> 32)` with `ONE = 2^32` (41_bit_chance R171): one step of a probability towards 1. -/
def stepUp (alpha p : Nat) : Nat := p + ((2 ^ 32 - p) * alpha + 2 ^ 31) / 2 ^ 32

/-- `(4096 * p + ONE/2) >> 32` (41_bit_chance R171): a probability rounded to 12 bits. -/
def round12 (p : Nat) : Nat := (4096 * p + 2 ^ 31) / 2 ^ 32

/-- The first pass of 41_bit_chance R171, `n` iterations from `last` and `p`: the entries it writes, as (state, next state)
with the states rising. `m` is `4096 - cut`. -/
def buildPath (alpha m n last p : Nat) : List (Nat × Nat) :=
  match n with
  | 0 => []
  | k + 1 =>
    let p8 := if round12 p ≤ last then last + 1 else round12 p
    let rest := buildPath alpha m k p8 (stepUp alpha p)
    if last ≠ 0 ∧ last < 4096 ∧ p8 ≤ m then (last, p8) :: rest else rest

/-- The value the second pass of 41_bit_chance R171 gives to a state `i` in `[cut, m]` that the first pass left at 0. -/
def buildGap (alpha m i : Nat) : Nat :=
  let p8 := round12 (stepUp alpha ((i * 2 ^ 32 + 2048) / 4096))
  min (if p8 ≤ i then i + 1 else p8) m

/-- Entries `i` to `i + n - 1` of `up` (41_bit_chance R171): the first pass's entry where it has one, the second pass's
in `[cut, m]` elsewhere, 0 outside. `path` is what the first pass wrote from `i` on. -/
def buildUp (cut alpha m n i : Nat) (path : List (Nat × Nat)) : List Nat :=
  match n with
  | 0 => []
  | k + 1 =>
    let gap := if cut ≤ i ∧ i ≤ m then buildGap alpha m i else 0
    match path with
    | [] => gap :: buildUp cut alpha m k (i + 1) []
    | (j, v) :: rest =>
      if j = i then v :: buildUp cut alpha m k (i + 1) rest else gap :: buildUp cut alpha m k (i + 1) ((j, v) :: rest)

/-- The row `up` of 41_bit_chance R171. -/
def specUp (cut alpha : Nat) : List Nat :=
  buildUp cut alpha (4096 - cut) 4096 0 (buildPath alpha (4096 - cut) 2048 0 (2 ^ 31))

/-- The row `dn` of 41_bit_chance R171, from `up`: `dn[0] = 0`, and `dn[i] = 4096 - up[4096 - i]` for `i` from 1 to 4095. -/
def mirrorRow (up : List Nat) : List Nat := 0 :: up.tail.reverse.map (fun v => 4096 - v)

/-- A row as stored: u16 entries (10_state R51). -/
def storedRow (vs : List Nat) : List (BitVec 16) := vs.map (fun v => BitVec.ofNat 16 v)

/-- BUILD_FN (41_bit_chance R170): the rows `up` and `dn` for `(cut, alpha)`. -/
def buildFn (f : FnChoice) (cut alpha : Nat) : List (BitVec 16) × List (BitVec 16) :=
  match f with
  | .spec => (storedRow (specUp cut alpha), storedRow (mirrorRow (specUp cut alpha)))
  | .other n =>
    ((List.range 4096).map (Config.otherBuild n cut alpha true), (List.range 4096).map (Config.otherBuild n cut alpha false))

/-- TBL_BUILD (41_bit_chance R172): row P_BIT gets `up`, the other row `dn`. -/
def execTblBuild (t cut : Nat) (alpha : Word) (s : State) : Result :=
  let w := encodeWord (.tblBuild t cut alpha)
  unlessFaulted w s <|
    if s.cfg.ntab ≤ t then raiseFault w .badIndex s
    else if cut = 0 ∨ alpha.toNat = 0 then raiseFault w .badParam s
    else
      let rows := buildFn s.cfg.buildFn cut alpha.toNat
      answer [] (setTblParams t (asWord cut) alpha
        (if s.cfg.pBit then tblLoad t rows.2 rows.1 s else tblLoad t rows.1 rows.2 s))

/-- TBL_WRITE (41_bit_chance R173). -/
def execTblWrite (t : Nat) (b : Bool) (st : Nat) (value : Word) (s : State) : Result :=
  let w := encodeWord (.tblWrite t b st value)
  unlessFaulted w s <|
    if s.cfg.ntab ≤ t then raiseFault w .badIndex s
    else if 0xFFFF < value.toNat then raiseFault w .badParam s
    else answer [] (setTblParams t 0 0 (tblPut t b st (value.setWidth 16) s))

/-- TBL_READ (41_bit_chance R174). -/
def execTblRead (t : Nat) (b : Bool) (st : Nat) (s : State) : Result :=
  let w := encodeWord (.tblRead t b st)
  unlessFaulted w s <|
    if s.cfg.ntab ≤ t then raiseFault w .badIndex s
    else
      match tblEntry s t b st with
      | none => raiseFault w .tableUnset s
      | some v => answer [asWord v.toNat] s

end Sys2Proof.Machine
end

