-- ==== Sys2Proof/Machine/Dispatch.lean ====
section
/-! DEFINITION. The dispatch: one arm per command, each a direct call of its meaning. -/

namespace Sys2Proof.Machine

/-- What a command does once its words have been taken off the command port. -/
def exec (i : Instr) (s : State) : Host.Outcome State Fault Refusal :=
  match i with
  | .nop => Sys2Proof.Machine.execNop s
  | .regRead csr => Sys2Proof.Machine.execRegRead csr s
  | .regWrite csr value => Sys2Proof.Machine.execRegWrite csr value s
  | .rcStartEnc => Sys2Proof.Machine.execRcStartEnc s
  | .rcStartDec => Sys2Proof.Machine.execRcStartDec s
  | .rcFlush => Sys2Proof.Machine.execRcFlush s
  | .rcAbort => Sys2Proof.Machine.execRcAbort s
  | .rcEncP bit p => Sys2Proof.Machine.execRcEncP bit p s
  | .rcDecP p => Sys2Proof.Machine.execRcDecP p s
  | .bcClear => Sys2Proof.Machine.execBcClear s
  | .bcSet ctx value => Sys2Proof.Machine.execBcSet ctx value s
  | .bcGet ctx => Sys2Proof.Machine.execBcGet ctx s
  | .bcPut t bit ctx => Sys2Proof.Machine.execBcPut t bit ctx s
  | .tblBuild t cut alpha => Sys2Proof.Machine.execTblBuild t cut alpha s
  | .tblWrite t b st value => Sys2Proof.Machine.execTblWrite t b st value s
  | .tblRead t b st => Sys2Proof.Machine.execTblRead t b st s
  | .encCtx t bit ctx => Sys2Proof.Machine.execEncCtx t bit ctx s
  | .decCtx t ctx => Sys2Proof.Machine.execDecCtx t ctx s
  | .yccInit np min0 max0 min1 max1 min2 max2 => Sys2Proof.Machine.execYccInit np min0 max0 min1 max1 min2 max2 s
  | .yccFwd r g b => Sys2Proof.Machine.execYccFwd r g b s
  | .yccInv y co cg => Sys2Proof.Machine.execYccInv y co cg s
  | .yccRangeY => Sys2Proof.Machine.execYccRangeY s
  | .yccRangeCo y => Sys2Proof.Machine.execYccRangeCo y s
  | .yccRangeCg y co => Sys2Proof.Machine.execYccRangeCg y co s

end Sys2Proof.Machine
end

