-- ==== Sys2Proof/Machine/Ports.lean ====
section
/-! DEFINITION. What the host does to the block between steps (70_reset_and_hazards R318), and the block's answer to an illegal word. -/

namespace Sys2Proof.Machine

/-- The host sends words on the command port (20_memory R71). -/
def hostSend (ws : List Word) (s : State) : State := { s with cmd := s.cmd ++ ws }

/-- The host appends bytes to the source (20_memory R73). -/
def hostFeed (bs : List Byte) (s : State) : State := { s with src := s.src ++ bs }

/-- The host sets `src_eof`, which it never clears (20_memory R73). -/
def hostSetEof (s : State) : State := { s with srcEof := true }

/-- The host asserts reset (70_reset_and_hazards R300): every piece of block state takes its reset value, words not yet
executed and a held command are discarded, and the byte source and sink are left alone, as are the responses already
returned (log entry 7). The parameters are those of the instance. -/
def hostReset (s : State) : State :=
  { State.reset with cfg := s.cfg, src := s.src, srcEof := s.srcEof, snk := s.snk, resp := s.resp }

/-- What the host may do (70_reset_and_hazards R318). -/
inductive HostAction where
  | send (ws : List Word)
  | feed (bs : List Byte)
  | setEof
  | reset
deriving DecidableEq, Repr

/-- One action of the host. -/
def hostAct (a : HostAction) (s : State) : State :=
  match a with
  | .send ws => hostSend ws s
  | .feed bs => hostFeed bs s
  | .setEof => hostSetEof s
  | .reset => hostReset s

/-- An illegal word (30_encoding R103, 60_exceptions R276 item 1): ILLEGAL_COMMAND, and the words after it stay. -/
def execIllegal (w : Word) (rest : List Word) (s : State) : State := takeFault w .illegalCommand (takeWords rest s)

/-- Put an instruction numbered as spec/opcode_table.json numbers it on the command port, in place of the words waiting
there, with nothing held, so that the next step takes it. -/
def placeWords (nbits w : Nat) (s : State) : State := { s with cmd := tableWords nbits w, hold := none }

end Sys2Proof.Machine
end

