-- ==== Sys2Proof/Machine/Step.lean ====
section
/-! DEFINITION. One step: a held command goes on, or the next command is taken off the command port and run. -/

namespace Sys2Proof.Machine

/-- One step of the block. A command that holds goes on first, since no other command starts until it ends
(20_memory R79). Otherwise the block takes the next command (R71); while none has arrived whole, the step changes
nothing (log entry 5). -/
def step (s : State) : Host.Outcome State Fault Refusal :=
  match s.hold with
  | some h => .next (resumeHold h s)
  | none =>
    match decode s.cmd with
    | .wait => .next s
    | .illegal w _ rest => .next (execIllegal w rest s)
    | .command i rest => exec i (takeWords rest s)

/-- `s` with an instruction of the opcode table's numbering as the next words of the command port. -/
def State.withFetchWord (s : State) (nbits w : Nat) : State := placeWords nbits w s

end Sys2Proof.Machine
end

