-- ==== Sys2Proof/Safety.lean ====
section
/-! DEFINITION. What claims about the block are stated in: the invariants of 10_state R52, frames, sessions and ended runs. -/

namespace Sys2Proof.Machine

/-! ### Invariants -/

/-- The coder bounds of 40_range_coder R123 and 10_state R52 on RC_RANGE. -/
abbrev rangeOk (s : State) : Prop := 2 ^ 16 < s.rcRange.toNat ∧ s.rcRange.toNat ≤ 2 ^ 24

/-- An encoder session between commands (10_state R52), with what the facts of 40_range_coder R125 rest on: before the
first byte nothing is pending and no carry can come, and none can reach a delayed 0xFF. -/
abbrev encOk (s : State) : Prop :=
  rangeOk s ∧ s.rcLow.toNat + s.rcRange.toNat ≤ 2 ^ 25 ∧
  (s.rcDelayed = none → s.rcPending = 0 ∧ s.rcLow.toNat + s.rcRange.toNat ≤ 2 ^ 24) ∧
  (s.rcDelayed = some 0xFF → s.rcLow.toNat + s.rcRange.toNat ≤ 2 ^ 24)

/-- A decoder session between commands (10_state R52). -/
abbrev decOk (s : State) : Prop := rangeOk s ∧ s.rcLow.toNat < s.rcRange.toNat

/-- A held command's state (20_memory R74): RC_START_DEC has read fewer than its three bytes in mode IDLE; a decode in
mode DEC has an interval DecRefill still has to scale up, and a legal context update. -/
def holdOk (h : Hold) (s : State) : Prop :=
  match h.point with
  | .startDec left =>
    h.word = encodeWord .rcStartDec ∧ 1 ≤ left ∧ left ≤ 3 ∧ s.mode = .idle ∧ s.rcRange = 0x01000000 ∧
      s.rcLow.toNat < 2 ^ (8 * (3 - left))
  | .refill _ u =>
    s.mode = .dec ∧ 16 ≤ s.rcRange.toNat ∧ s.rcRange.toNat ≤ 2 ^ 16 ∧ s.rcLow.toNat < s.rcRange.toNat ∧
      ∀ i v, u = some (i, v) → i < s.cfg.nctx ∧ v ≠ 0

/-- The invariant of the block: 10_state R52 with the canonical form of the arrays, the register widths and reserved
bits of 10_state R36, R37, R46 to R49, and the state of a held command. -/
structure Inv (s : State) : Prop where
  cfg : s.cfg.Legal
  ctx : cellsWf 0x800 s.cfg.nctx s.ctx ∧ ∀ x ∈ s.ctx, x.2 ≠ 0
  tbl : cellsOpenWf (8192 * s.cfg.ntab) s.tbl
  tblCut : cellsWf 0 s.cfg.ntab s.tblCut
  tblAlpha : cellsWf 0 s.cfg.ntab s.tblAlpha
  ctrl : s.ctrl.toNat < 2
  pending : s.rcPending.toNat < 2 ^ s.cfg.pendW
  fault : (s.faulted = true ↔ s.cause ≠ .noFault) ∧ s.cause ≠ .faultedState
  faultInfo : s.faulted = false → s.faultInfo = 0
  attached : s.attached = true →
    s.ycPar.toNat = max (max s.ycMax0.toNat s.ycMax1.toNat) s.ycMax2.toNat / 4 + 1 ∧
      max (max s.ycMax0.toNat s.ycMax1.toNat) s.ycMax2.toNat ≤ s.cfg.ycMaxV
  detached : s.attached = false → s.ycPar = 0 ∧ s.ycMax0 = 0 ∧ s.ycMax1 = 0 ∧ s.ycMax2 = 0
  enc : s.faulted = false → s.mode = .enc → encOk s
  dec : s.faulted = false → s.hold = none → s.mode = .dec → decOk s
  hold : ∀ h, s.hold = some h → s.faulted = false ∧ holdOk h s

/-! ### Frames: which fields may differ -/

/-- Only the response port and the fault registers differ (60_exceptions R272). -/
abbrev frameReport (s t : State) : Prop :=
  t = { s with faulted := t.faulted, cause := t.cause, faultInfo := t.faultInfo, resp := t.resp }

/-- Besides, only the encoder's registers and the sink differ (40_range_coder R124, R125, R130). -/
abbrev frameEncode (s t : State) : Prop :=
  t = { s with
    faulted := t.faulted, cause := t.cause, faultInfo := t.faultInfo, resp := t.resp,
    rcLow := t.rcLow, rcRange := t.rcRange, rcDelayed := t.rcDelayed, rcPending := t.rcPending,
    bytesOut := t.bytesOut, snk := t.snk }

/-- Besides the report, only the decoder's registers, the source and the hold differ (40_range_coder R126, R127, R131). -/
abbrev frameDecode (s t : State) : Prop :=
  t = { s with
    faulted := t.faulted, cause := t.cause, faultInfo := t.faultInfo, resp := t.resp,
    rcLow := t.rcLow, rcRange := t.rcRange, bytesIn := t.bytesIn, src := t.src, hold := t.hold }

/-! ### Answers -/

/-- The block answered the command in `t`: exactly one more response, and it is `r` (20_memory R72). -/
abbrev answered (s t : State) (r : Response) : Prop := t.resp = s.resp ++ [r]

/-- `t` is `s` after a fault `c` that the command of word `w` raised before any effect (60_exceptions R272, R274), the
first fault of the block. -/
abbrev faultedBy (w : Word) (c : Cause) (s t : State) : Prop :=
  t = { s with faulted := true, cause := c, faultInfo := w, resp := s.resp ++ [.fault c] }

/-- `e` is one of the commands that the faulted state lets run (60_exceptions R273). -/
def runsWhileFaulted (i : Instr) : Bool :=
  match i with
  | .nop => true
  | .regRead _ => true
  | _ => false

/-! ### Which command may write what (10_state R34, R36, R39, R40, R50, R51; 40_range_coder; 42_ycocg R201) -/

/-- The commands that may write MODE (10_state R36). -/
def writesMode (i : Instr) : Bool :=
  match i with
  | .rcStartEnc => true
  | .rcStartDec => true
  | .rcFlush => true
  | .rcAbort => true
  | _ => false

/-- The commands that may write RC_DELAYED and RC_PENDING (40_range_coder R128 to R132, 41_bit_chance R168). -/
def writesCarry (i : Instr) : Bool :=
  match i with
  | .rcStartEnc => true
  | .rcStartDec => true
  | .rcFlush => true
  | .rcEncP _ _ => true
  | .encCtx _ _ _ => true
  | _ => false

/-- The commands that may write to the sink and count its bytes (10_state R40, 20_memory R75). -/
def writesSink (i : Instr) : Bool :=
  match i with
  | .rcFlush => true
  | .rcEncP _ _ => true
  | .encCtx _ _ _ => true
  | _ => false

/-- The commands that may read the source and count its bytes, and hold on it (10_state R39, 20_memory R74). -/
def readsSource (i : Instr) : Bool :=
  match i with
  | .rcStartDec => true
  | .rcDecP _ => true
  | .decCtx _ _ => true
  | _ => false

/-- The commands that may write RC_LOW and RC_RANGE (40_range_coder R128 to R132, 41_bit_chance R168, R169). -/
def writesInterval (i : Instr) : Bool := writesCarry i || readsSource i

/-- The commands that may write CTX (10_state R50). -/
def writesCtx (i : Instr) : Bool :=
  match i with
  | .bcClear => true
  | .bcSet _ _ => true
  | .bcPut _ _ _ => true
  | .encCtx _ _ _ => true
  | .decCtx _ _ => true
  | _ => false

/-- The commands that may write TBL and its parameter registers (10_state R49, R51). -/
def writesTbl (i : Instr) : Bool :=
  match i with
  | .tblBuild _ _ _ => true
  | .tblWrite _ _ _ _ => true
  | _ => false

/-- The command that may write CTRL (10_state R34). -/
def writesCtrl (i : Instr) : Bool :=
  match i with
  | .regWrite _ _ => true
  | _ => false

/-- The command that may write ATTACHED, YC_PAR and YC_MAX0 to YC_MAX2 (10_state R36, 42_ycocg R201). -/
def writesColour (i : Instr) : Bool :=
  match i with
  | .yccInit _ _ _ _ _ _ _ => true
  | _ => false

/-! ### The coder's numbers -/

/-- How many times an interval of this width, at least 16, is scaled by 256 to pass MIN_RANGE (40_range_coder R122, R125, R127). -/
def shiftsFor (range : Nat) : Nat := if 2 ^ 16 < range then 0 else if 2 ^ 8 < range then 1 else 2

/-- The width that coding `bit` with chance `p` gives the interval (40_range_coder R124): P_BIT takes `Chance(p, range)`,
the other bit the rest. -/
def bitRange (s : State) (p : Nat) (bit : Bool) : Nat :=
  if bit = s.cfg.pBit then chance p s.rcRange.toNat else s.rcRange.toNat - chance p s.rcRange.toNat

/-- The bottom that coding `bit` with chance `p` gives the interval (40_range_coder R124): P_BIT takes the top of it. -/
def bitLow (s : State) (p : Nat) (bit : Bool) : Nat :=
  if bit = s.cfg.pBit then s.rcLow.toNat + (s.rcRange.toNat - chance p s.rcRange.toNat) else s.rcLow.toNat

/-- A bottom of `low` after `k` scalings (40_range_coder R125): each drops what stands above its low 16 bits. -/
def lowAfter (low k : Nat) : Nat := if k = 0 then low else low * 256 ^ k % 2 ^ 24

/-- The undecided branch of 40_range_coder R125. -/
abbrev undecided (low width : Nat) : Prop := low < 2 ^ 24 ∧ 2 ^ 24 ≤ low + width

/-- EncRenorm finds the pending counter full in its scaling number `j`, counted from 0, when it starts from `low` and
`range` (40_range_coder R125): each scaling up to that one is needed and undecided. -/
abbrev overflowsAt (s : State) (low range j : Nat) : Prop :=
  s.rcDelayed ≠ none ∧ s.rcPending.toNat + j = 2 ^ s.cfg.pendW - 1 ∧
    ∀ i ≤ j, range * 256 ^ i ≤ 2 ^ 16 ∧ undecided (lowAfter low i) (range * 256 ^ i)

/-- The same for the shifts of RC_FLUSH (40_range_coder R132), each of which sets the width to 0xFFFF. -/
abbrev flushOverflowsAt (s : State) (j : Nat) : Prop :=
  s.rcDelayed ≠ none ∧ s.rcPending.toNat + j = 2 ^ s.cfg.pendW - 1 ∧
    ∀ i ≤ j, undecided (lowAfter (s.rcLow.toNat + 0xFFFF) i) 0xFFFF

/-- `s` after PENDING_OVERFLOW raised by the command of word `w` with the interval at `low` and `range`, the first fault of
the block (60_exceptions R272, R274). -/
def overflowed (w : Word) (low range : Nat) (s : State) : State :=
  { s with
    rcLow := BitVec.ofNat 32 low, rcRange := BitVec.ofNat 32 range, rcPending := BitVec.ofNat 32 (2 ^ s.cfg.pendW - 1)
    faulted := true, cause := .pendingOverflow, faultInfo := w, resp := s.resp ++ [.fault .pendingOverflow] }

/-- A window of value `low` after the bytes `bs` are shifted in, first byte first (20_memory R76). -/
def foldBytes (low : Nat) (bs : List Byte) : Nat := bs.foldl (fun a b => a * 256 + b.toNat) low

/-! ### The default tables, read from 41_bit_chance R171 -/

/-- `p` in the first pass of 41_bit_chance R171 after `n` iterations. -/
def pathProb (alpha n : Nat) : Nat :=
  match n with
  | 0 => 2 ^ 31
  | k + 1 => pathProb alpha k + ((2 ^ 32 - pathProb alpha k) * alpha + 2 ^ 31) / 2 ^ 32

/-- `last` in the first pass of 41_bit_chance R171 after `n` iterations; iteration `n` writes `up[last]` with the next one. -/
def pathState (alpha n : Nat) : Nat :=
  match n with
  | 0 => 0
  | k + 1 => max (pathState alpha k + 1) ((4096 * pathProb alpha k + 2 ^ 31) / 2 ^ 32)

/-- What the second pass of 41_bit_chance R171 gives to a state `i` that the first pass left at 0, with `m = 4096 - cut`. -/
def gapState (alpha m i : Nat) : Nat :=
  let p := (i * 2 ^ 32 + 2048) / 4096
  let q := p + ((2 ^ 32 - p) * alpha + 2 ^ 31) / 2 ^ 32
  min (max (i + 1) ((4096 * q + 2 ^ 31) / 2 ^ 32)) m

/-! ### Sessions and runs -/

/-- The bytes an encoder session has decided and not written (10_state R53): the delayed byte and the pending ones. -/
def unwritten (s : State) : Nat := (if s.rcDelayed = none then 0 else 1) + s.rcPending.toNat

/-- One coded bit of a session, by an explicit chance or by a context and a table (70_reset_and_hazards R310). -/
inductive CodedBit where
  | explicit (p : Nat) (bit : Bool)
  | adaptive (t ctx : Nat) (bit : Bool)
deriving DecidableEq, Repr

/-- The encoding command of a coded bit. -/
def CodedBit.encoder (c : CodedBit) : Instr :=
  match c with
  | .explicit p bit => .rcEncP bit p
  | .adaptive t ctx bit => .encCtx t bit ctx

/-- Its decoding twin (70_reset_and_hazards R310). -/
def CodedBit.decoder (c : CodedBit) : Instr :=
  match c with
  | .explicit p _ => .rcDecP p
  | .adaptive t ctx _ => .decCtx t ctx

/-- The bit it codes. -/
def CodedBit.bit (c : CodedBit) : Bool :=
  match c with
  | .explicit _ bit => bit
  | .adaptive _ _ bit => bit

/-- Run commands one after another, each on the state the one before left. -/
def execAll (is : List Instr) (s : State) : Host.Outcome State Fault Refusal :=
  match is with
  | [] => .next s
  | i :: rest =>
    match exec i s with
    | .next t => execAll rest t
    | .fault f => .fault f
    | .refused r => .refused r

/-- The end of a run (70_reset_and_hazards R319): every word taken and nothing held. -/
def runEnded (s : State) : Bool := decide (s.cmd = [] ∧ s.hold = none)

end Sys2Proof.Machine
end

