-- ==== Sys2Proof/Certificates/Slice0/Obligations.lean ====
section
/-! DEFINITION. The statements for the provers, from the numbered rules of spec/. -/

open Sys2Proof Sys2Proof.Machine

/-! ### Encoding -/

/-- 30_encoding R90 to R102, R108: the words of a well-formed command, followed by any words, decode to that command and
leave those words. -/
def Obligations.DecodeOfEncodeIsTheCommand : Prop :=
  ∀ (i : Instr) (rest : List Word), wellFormed i = true → decode (encode i ++ rest) = .command i rest

/-- 30_encoding R101 to R105: words decode to a command only as that command's own words, and the command is well formed;
so no command has two spellings. -/
def Obligations.DecodedWordsAreTheEncoding : Prop :=
  ∀ (ws : List Word) (i : Instr) (rest : List Word),
    decode ws = .command i rest → wellFormed i = true ∧ encode i ++ rest = ws

/-- 30_encoding R102: the decoder finds the row a word matches, which is the only one, and finds the word illegal exactly
when it matches none. -/
def Obligations.DecoderFindsTheMatchingRow : Prop :=
  (∀ (w : Word) (r : OpRow), selectRow w = some r ↔ r ∈ opcodeMap ∧ w &&& r.mask = r.pattern) ∧
  (∀ (w : Word) (ws : List Word),
    (∃ why, decode (w :: ws) = .illegal w why ws) ↔ ∀ r ∈ opcodeMap, w &&& r.mask ≠ r.pattern)

/-- 30_encoding R109: the worked encodings, encoded and decoded. -/
def Obligations.WorkedEncodingsDecode : Prop :=
  encode (.rcEncP true 100) = [0x14001064] ∧ encode (.encCtx 1 true 5) = [0x30110005] ∧
  encode (.decCtx 0 3) = [0x31000003] ∧ encode (.tblBuild 0 2 226050910) = [0x24000002, 0x0D79435E] ∧
  encode (.yccInit 3 0 255 0 255 0 255) = [0x40000003, 0, 255, 0, 255, 0, 255] ∧
  decode [0x14001064] = .command (.rcEncP true 100) [] ∧
  decode [0x30110005] = .command (.encCtx 1 true 5) [] ∧
  decode [0x31000003] = .command (.decCtx 0 3) [] ∧
  decode [0x24000002, 0x0D79435E] = .command (.tblBuild 0 2 226050910) [] ∧
  decode [0x40000003, 0, 255, 0, 255, 0, 255] = .command (.yccInit 3 0 255 0 255 0 255) [] ∧
  decode [0x14002000] = .illegal 0x14002000 .nonzeroReservedField [] ∧
  decode [0x21100000] = .illegal 0x21100000 .nonzeroReservedField []

/-! ### One step -/

/-- 20_memory R71: when nothing holds and the words on the command port decode to a command, a step is that command on the
state without its words. -/
def Obligations.StepRunsTheDecodedCommand : Prop :=
  ∀ (s : State) (i : Instr) (rest : List Word),
    s.hold = none → decode s.cmd = .command i rest → step s = exec i { s with cmd := rest }

/-- 30_encoding R103, 60_exceptions R272, R276: an illegal word is taken alone and answers ILLEGAL_COMMAND, recorded if it
is the first fault, with no other effect. -/
def Obligations.StepFaultsAnIllegalWord : Prop :=
  ∀ (s : State) (w : Word) (why : IllegalWord) (rest : List Word),
    s.hold = none → decode s.cmd = .illegal w why rest →
    (s.faulted = false →
      step s = .next { s with
        cmd := rest, faulted := true, cause := .illegalCommand, faultInfo := w
        resp := s.resp ++ [.fault .illegalCommand] }) ∧
    (s.faulted = true → step s = .next { s with cmd := rest, resp := s.resp ++ [.fault .illegalCommand] })

/-- 20_memory R71, 60_exceptions R273: while a command's words have not all arrived the block waits with no effect,
faulted or not. That such a step answers the same state is the model's choice (log entry 5). -/
def Obligations.StepWaitsForAllWords : Prop :=
  ∀ s : State, s.hold = none →
    (s.cmd = [] ∨ ∃ w ws r, s.cmd = w :: ws ∧ selectRow w = some r ∧ ws.length < r.nargs) →
    step s = .next s

/-- 20_memory R74: a held command waits without effect while the source is empty and `src_eof` is clear. That such a step
answers the same state is the model's choice (log entry 5), as is the form of a held command (log entry 4). -/
def Obligations.StepHoldsWithoutBytes : Prop :=
  ∀ (s : State) (h : Hold), Inv s → s.hold = some h → s.src = [] → s.srcEof = false → step s = .next s

/-- 20_memory R73, R74: a command that held continues from the same point when the host appends bytes, and fails when the
host sets `src_eof`. The next step leaves what the command would have left had the bytes been in the source, or had
`src_eof` been set, before it started; after `src_eof` that is the fault STREAM_TRUNCATED, recorded with the command's own
word, and no hold. That a held command has this form is the model's reading (log entry 4). -/
def Obligations.HeldCommandContinuesFromTheSamePoint : Prop :=
  ∀ (i : Instr) (s t : State) (bs : List Byte),
    s.hold = none → s.srcEof = false → exec i s = .next t → t.hold ≠ none →
    step (hostFeed bs t) = exec i (hostFeed bs s) ∧
    step (hostSetEof t) = exec i (hostSetEof s) ∧
    step (hostSetEof t) = .next { t with
      srcEof := true, hold := none, faulted := true, cause := .streamTruncated, faultInfo := encodeWord i
      resp := t.resp ++ [.fault .streamTruncated] }

/-- 10_state R30, 20_memory R73, R75, R81, 70_reset_and_hazards R318: no step changes the parameters or `src_eof`; a step
only takes words and bytes from the front of the ports and only appends to the sink and the responses. -/
def Obligations.StepUsesPortsInOrder : Prop :=
  ∀ s t : State, step s = .next t →
    t.cfg = s.cfg ∧ t.srcEof = s.srcEof ∧ t.cmd <:+ s.cmd ∧ t.src <:+ s.src ∧ s.snk <+: t.snk ∧ s.resp <+: t.resp

/-! ### Reset and invariants -/

/-- 70_reset_and_hazards R300, R301: the reset value of every register and array, with no words waiting and nothing held.
They are the values of State.reset, which has the default parameters by the model's choice (log entry 1), and from every
state, faulted or holding, they are what a reset by the host leaves, with CONFIG from the instance's own parameters; that
reset leaves the parameters, the source and the sink as they were, and by the model's reading also `src_eof` and the
responses already returned (log entry 7). That a held command is the field `hold` is log entry 4. -/
def Obligations.ResetLeavesTheSpecifiedValues : Prop :=
  let values (r : State) : Prop :=
    csrRead r 0x00 = some 0x464C4946 ∧ csrRead r 0x01 = some (configWord r.cfg) ∧ csrRead r 0x02 = some 0 ∧
    csrRead r 0x03 = some 1 ∧ csrRead r 0x04 = some 0 ∧ csrRead r 0x05 = some 0 ∧ csrRead r 0x06 = some 0 ∧
    csrRead r 0x07 = some 0 ∧ csrRead r 0x08 = some 0x01000000 ∧ csrRead r 0x09 = some 0xFFFFFFFF ∧
    csrRead r 0x0A = some 0 ∧ csrRead r 0x0B = some 0 ∧ csrRead r 0x0C = some 0 ∧ csrRead r 0x0D = some 0 ∧
    csrRead r 0x0E = some 0 ∧
    (r.cfg.ntab ≤ 16 → ∀ t < r.cfg.ntab, csrRead r (0x10 + t) = some 0 ∧ csrRead r (0x20 + t) = some 0) ∧
    r.mode = .idle ∧ r.faulted = false ∧ r.attached = false ∧ r.cause = .noFault ∧ r.rcDelayed = none ∧
    (∀ i, ctxRead r i = 0x800) ∧ (∀ t b st, tblEntry r t b st = none) ∧ r.cmd = [] ∧ r.hold = none
  (values State.reset ∧ csrRead State.reset 0x01 = some 0x0FFF0002 ∧ State.reset.cfg.ntab = 2) ∧
  (∀ s : State, values (hostReset s) ∧ (hostReset s).cfg = s.cfg ∧ (hostReset s).src = s.src ∧
    (hostReset s).srcEof = s.srcEof ∧ (hostReset s).snk = s.snk ∧ (hostReset s).resp = s.resp)

/-- 10_state R52: the invariant holds right after reset. -/
def Obligations.ResetMeetsTheInvariant : Prop := Inv State.reset

/-- 10_state R36, R37, R46 to R52, 40_range_coder R123: every step keeps the invariant, from every state that meets it.
The canonical form of the arrays (log entry 8) and the clauses on a held command (log entry 4) are the model's. -/
def Obligations.StepKeepsTheInvariant : Prop :=
  ∀ s t : State, Inv s → step s = .next t → Inv t

/-- 10_state R52, 70_reset_and_hazards R300, R318: so does everything the host may do. What a reset leaves of the host's
own side is the model's reading (log entry 7). -/
def Obligations.HostActionsKeepTheInvariant : Prop :=
  ∀ (a : HostAction) (s : State), Inv s → Inv (hostAct a s)

/-- 00_scope R10, 40_range_coder R122, R125: under the invariant every step answers a next state. That a step which waits for
words, or holds for a byte, answers a next state is the model's choice (log entry 5), where 93_implementation_defined U14
and U15 call the block stuck; the one stop of the model that this rules out is its own (log entry 9). -/
def Obligations.StepAlwaysGoesOn : Prop :=
  ∀ s : State, Inv s → ∃ t, step s = .next t

/-! ### Faults -/

/-- 60_exceptions R273, R275: in the faulted state a step takes words and answers, and changes nothing else; it performs no
ReadByte and no WriteByte, and FAULTED, CAUSE and FAULT_INFO keep the first fault. -/
def Obligations.FaultedStateIsQuiescent : Prop :=
  ∀ s t : State, s.faulted = true → s.hold = none → step s = .next t → t = { s with cmd := t.cmd, resp := t.resp }

/-- 60_exceptions R273: every command but NOP and REG_READ has no effect while the block is faulted and answers
FAULTED_STATE. -/
def Obligations.FaultedStateRefusesCommands : Prop :=
  ∀ (i : Instr) (s : State), s.faulted = true → runsWhileFaulted i = false →
    exec i s = .next { s with resp := s.resp ++ [.fault .faultedState] }

/-- 60_exceptions R272, R274: a fault other than STREAM_TRUNCATED and PENDING_OVERFLOW is raised before the command has any
effect: only FAULTED, CAUSE, FAULT_INFO and the response differ. -/
def Obligations.FaultsComeBeforeAnyEffect : Prop :=
  ∀ (i : Instr) (s t : State) (c : Cause),
    s.faulted = false → exec i s = .next t → answered s t (.fault c) →
    c ≠ .streamTruncated → c ≠ .pendingOverflow → faultedBy (encodeWord i) c s t

/-- 60_exceptions R272: whatever the fault, the first one sets FAULTED, CAUSE and FAULT_INFO, and a command that does not
fault leaves them. -/
def Obligations.FirstFaultIsRecorded : Prop :=
  ∀ (i : Instr) (s t : State), s.faulted = false → exec i s = .next t →
    (∃ c, answered s t (.fault c) ∧ t.faulted = true ∧ t.cause = c ∧ t.faultInfo = encodeWord i) ∨
    ((t.resp = s.resp ∨ ∃ ws, answered s t (.ok ws)) ∧
      t.faulted = false ∧ t.cause = s.cause ∧ t.faultInfo = s.faultInfo)

/-- 20_memory R72, R74: a command that ends answers exactly once; one that does not end holds, with the source empty and
not ended, and has not answered. -/
def Obligations.EveryCommandAnswersOnce : Prop :=
  ∀ (i : Instr) (s t : State), s.hold = none → exec i s = .next t →
    (t.hold = none ∧ ∃ r, answered s t r) ∨
    (t.hold ≠ none ∧ readsSource i = true ∧ t.resp = s.resp ∧ t.src = [] ∧ t.srcEof = false)

/-- 10_state R34, R36, R39, R40, R49 to R51 (the frame of every command): each piece of state is written only by the
commands the rules name, and none by any command: the parameters, the words, `src_eof`. -/
def Obligations.OnlyNamedCommandsWriteState : Prop :=
  ∀ (i : Instr) (s t : State), exec i s = .next t →
    t.cfg = s.cfg ∧ t.cmd = s.cmd ∧ t.srcEof = s.srcEof ∧
    (writesMode i = false → t.mode = s.mode) ∧
    (writesColour i = false → t.attached = s.attached ∧ t.ycPar = s.ycPar ∧ t.ycMax0 = s.ycMax0 ∧
      t.ycMax1 = s.ycMax1 ∧ t.ycMax2 = s.ycMax2) ∧
    (writesCtrl i = false → t.ctrl = s.ctrl) ∧
    (writesInterval i = false → t.rcLow = s.rcLow ∧ t.rcRange = s.rcRange) ∧
    (writesCarry i = false → t.rcDelayed = s.rcDelayed ∧ t.rcPending = s.rcPending) ∧
    (writesSink i = false → t.snk = s.snk ∧ (i ≠ .rcStartEnc → t.bytesOut = s.bytesOut)) ∧
    (readsSource i = false → t.src = s.src ∧ t.bytesIn = s.bytesIn ∧ t.hold = s.hold) ∧
    (writesCtx i = false → ∀ k, ctxRead t k = ctxRead s k) ∧
    (writesTbl i = false → (∀ k b st, tblEntry t k b st = tblEntry s k b st) ∧
      (∀ k, tblCutOf t k = tblCutOf s k ∧ tblAlphaOf t k = tblAlphaOf s k))

/-! ### Control and registers -/

/-- 43_control R250, 60_exceptions R273: NOP answers OK and changes nothing, faulted or not. -/
def Obligations.NopAnswersOk : Prop :=
  ∀ s : State, exec .nop s = .next { s with resp := s.resp ++ [.ok []] }

/-- 10_state R35, 43_control R251: REG_READ answers the value of each register of the map, faulted or not, and changes
nothing. -/
def Obligations.RegReadAnswersEachRegister : Prop :=
  ∀ s : State, s.cfg.ntab ≤ 16 →
    let reads (n : Nat) (v : Word) : Prop := exec (.regRead n) s = .next { s with resp := s.resp ++ [.ok [v]] }
    reads 0x00 0x464C4946 ∧ reads 0x01 (configWord s.cfg) ∧ reads 0x02 (statusWord s) ∧ reads 0x03 s.ctrl ∧
    reads 0x04 s.faultInfo ∧ reads 0x05 s.bytesIn ∧ reads 0x06 s.bytesOut ∧ reads 0x07 s.rcLow ∧
    reads 0x08 s.rcRange ∧ reads 0x09 (delayedWord s.rcDelayed) ∧ reads 0x0A s.rcPending ∧ reads 0x0B s.ycPar ∧
    reads 0x0C s.ycMax0 ∧ reads 0x0D s.ycMax1 ∧ reads 0x0E s.ycMax2 ∧
    (∀ t < s.cfg.ntab, reads (0x10 + t) (tblCutOf s t) ∧ reads (0x20 + t) (tblAlphaOf s t))

/-- 10_state R35, 43_control R251: every other number is unmapped, and REG_READ of it raises BAD_INDEX. -/
def Obligations.RegReadOfUnmappedFaults : Prop :=
  ∀ (s : State) (n : Nat), s.cfg.ntab ≤ 16 →
    (n = 0x0F ∨ (0x10 + s.cfg.ntab ≤ n ∧ n < 0x20) ∨ 0x20 + s.cfg.ntab ≤ n) →
    (s.faulted = false → ∃ t, exec (.regRead n) s = .next t ∧ faultedBy (encodeWord (.regRead n)) .badIndex s t) ∧
    (s.faulted = true → exec (.regRead n) s = .next { s with resp := s.resp ++ [.fault .badIndex] })

/-- 10_state R36, R42, R45, 60_exceptions R271: the fields of STATUS and of CONFIG for legal parameters, the reserved bits
of both, the word RC_DELAYED reads as, and the codes of the causes. -/
def Obligations.RegisterWordsHaveTheirFields : Prop :=
  ∀ s : State,
    (let w := (statusWord s).toNat
     w % 4 = (match s.mode with | .idle => 0 | .enc => 1 | .dec => 2) ∧
     w / 4 % 2 = (if s.faulted then 1 else 0) ∧ w / 8 % 2 = (if s.attached then 1 else 0) ∧
     w / 16 % 16 = 0 ∧ w / 256 % 16 = causeCode s.cause ∧ w / 4096 = 0) ∧
    (s.cfg.Legal →
      let w := (configWord s.cfg).toNat
      w % 2 = (if s.cfg.pBit then 1 else 0) ∧ w / 2 % 16 = s.cfg.ntab - 1 ∧ w / 32 % 2048 = 0 ∧
      w / 65536 = s.cfg.nctx - 1) ∧
    (s.rcDelayed = none → delayedWord s.rcDelayed = 0xFFFFFFFF) ∧
    (∀ b, s.rcDelayed = some b → (delayedWord s.rcDelayed).toNat = b.toNat) ∧
    [Cause.noFault, .illegalCommand, .streamTruncated, .modeError, .badChance, .badIndex, .tableUnset, .badParam,
      .notAttached, .yccDomain, .pendingOverflow, .readOnly, .faultedState].map causeCode =
      [0, 1, 2, 3, 4, 5, 6, 7, 8, 9, 10, 11, 15]

/-- 10_state R37, 43_control R252: REG_WRITE of 0 or 1 to CTRL writes CTRL, and nothing else. -/
def Obligations.RegWriteSetsCtrl : Prop :=
  ∀ (s : State) (v : Word), s.faulted = false → v.toNat < 2 →
    exec (.regWrite 0x03 v) s = .next { s with ctrl := v, resp := s.resp ++ [.ok []] }

/-- 43_control R252: REG_WRITE faults, in the order of its checks: an unmapped number BAD_INDEX, a mapped one but CTRL
READ_ONLY, a reserved bit of CTRL BAD_PARAM. -/
def Obligations.RegWriteFaults : Prop :=
  ∀ (s : State) (n : Nat) (v : Word), s.faulted = false →
    let faults (c : Cause) : Prop := ∃ t, exec (.regWrite n v) s = .next t ∧ faultedBy (encodeWord (.regWrite n v)) c s t
    (csrRead s n = none → faults .badIndex) ∧
    (csrRead s n ≠ none → n ≠ 0x03 → faults .readOnly) ∧
    (n = 0x03 → 2 ≤ v.toNat → faults .badParam)

/-! ### Range coder -/

/-- 40_range_coder R121: the split form is the rounded product, and for the operands it is applied to both of its
intermediates stay below 2^32. -/
def Obligations.ChanceIsTheRoundedProduct : Prop :=
  (∀ p range : Nat, chance p range = (range * p + 2048) / 4096) ∧
  (∀ p range : Nat, 1 ≤ p → p ≤ 4095 → 2 ^ 16 < range → range ≤ 2 ^ 24 →
    range % 4096 * p + 2048 < 2 ^ 32 ∧ range / 4096 * p < 2 ^ 32 ∧ chance p range < 2 ^ 32)

/-- 40_range_coder R122: both sub-intervals have at least 16, and so has the interval a coding step leaves to be scaled,
in the encoder and in the decoder. -/
def Obligations.ChanceLeavesBothIntervalsWide : Prop :=
  (∀ p range : Nat, 1 ≤ p → p ≤ 4095 → 2 ^ 16 < range → range ≤ 2 ^ 24 →
    16 ≤ chance p range ∧ chance p range ≤ range - 16) ∧
  (∀ (s : State) (p : Nat) (bit : Bool), 1 ≤ p → p ≤ 4095 → rangeOk s →
    16 ≤ (encSplit p bit s).rcRange.toNat ∧ 16 ≤ (decSplit p s).rcRange.toNat)

/-- 40_range_coder R128, R133: RC_START_ENC opens an encoder session in any mode; RC_ABORT closes any session and changes
MODE only. -/
def Obligations.SessionsOpenAndClose : Prop :=
  ∀ s : State, s.faulted = false →
    exec .rcStartEnc s = .next { s with
      mode := .enc, rcLow := 0, rcRange := 0x01000000, rcDelayed := none, rcPending := 0, bytesOut := 0
      resp := s.resp ++ [.ok []] } ∧
    exec .rcAbort s = .next { s with mode := .idle, resp := s.resp ++ [.ok []] }

/-- 40_range_coder R129: with three bytes in the source RC_START_DEC fills the window with them, the first in bits 23:16. -/
def Obligations.RcStartDecFillsTheWindow : Prop :=
  ∀ (s : State) (b0 b1 b2 : Byte) (rest : List Byte),
    s.faulted = false → s.src = b0 :: b1 :: b2 :: rest →
    exec .rcStartDec s = .next { s with
      mode := .dec, bytesIn := 3, rcRange := 0x01000000
      rcLow := BitVec.ofNat 32 (b0.toNat * 65536 + b1.toNat * 256 + b2.toNat)
      rcDelayed := none, rcPending := 0, src := rest, hold := none, resp := s.resp ++ [.ok []] }

/-- 40_range_coder R129, 60_exceptions R274, 20_memory R74: with fewer than three bytes RC_START_DEC takes those there are,
in mode IDLE; then it raises STREAM_TRUNCATED if the source has ended, and holds if it has not. -/
def Obligations.RcStartDecOnAShortSource : Prop :=
  ∀ s : State, s.faulted = false → s.src.length < 3 →
    let u : State := { s with
      mode := .idle, bytesIn := BitVec.ofNat 32 s.src.length, rcRange := 0x01000000
      rcLow := BitVec.ofNat 32 (foldBytes 0 s.src), rcDelayed := none, rcPending := 0, src := [] }
    (s.srcEof = true → exec .rcStartDec s = .next { u with
      hold := none, faulted := true, cause := .streamTruncated, faultInfo := encodeWord .rcStartDec
      resp := s.resp ++ [.fault .streamTruncated] }) ∧
    (s.srcEof = false → exec .rcStartDec s = .next { u with
      hold := some ⟨encodeWord .rcStartDec, .startDec (3 - s.src.length)⟩ })

/-- 40_range_coder R124, R125, R130, R135: in an encoder session RC_ENC_P codes its bit, unless one of its scalings finds
the carry undecided and the pending counter full (RcEncPFaultsOnAFullPendingCounter). The bit P_BIT takes the top `Chance` of the interval and the other bit the rest; the interval is scaled as often as its
width needs; each scaling produces one byte, written or still held back; nothing else changes. -/
def Obligations.RcEncPCodesTheBit : Prop :=
  ∀ (s : State) (bit : Bool) (p : Nat),
    s.faulted = false → s.mode = .enc → encOk s → 1 ≤ s.cfg.pendW → s.cfg.pendW ≤ 32 →
    s.rcPending.toNat < 2 ^ s.cfg.pendW → 1 ≤ p → p ≤ 4095 →
    let low := bitLow s p bit
    let range := bitRange s p bit
    let k := shiftsFor range
    (∀ j ≤ 1, ¬ overflowsAt s low range j) →
    ∃ t, exec (.rcEncP bit p) s = .next t ∧ answered s t (.ok []) ∧ frameEncode s t ∧
      t.faulted = false ∧ t.cause = s.cause ∧ t.faultInfo = s.faultInfo ∧ encOk t ∧
      t.rcRange.toNat = range * 256 ^ k ∧
      t.rcLow.toNat = lowAfter low k ∧
      t.snk.length + unwritten t = s.snk.length + unwritten s + k ∧
      t.bytesOut = s.bytesOut + BitVec.ofNat 32 (t.snk.length - s.snk.length) ∧
      (k = 0 → t.snk = s.snk ∧ t.rcDelayed = s.rcDelayed ∧ t.rcPending = s.rcPending)

/-- 40_range_coder R125: one iteration of EncRenorm, branch by branch in the order of the rule; PENDING_OVERFLOW is the
iteration that gives no state. -/
def Obligations.EncRenormIterationByBranch : Prop :=
  ∀ s : State,
    let low := s.rcLow.toNat
    let range := s.rcRange.toNat
    let u : State := { s with rcLow := BitVec.ofNat 32 (low % 65536 * 256), rcRange := BitVec.ofNat 32 (range * 256) }
    let byte : Byte := BitVec.ofNat 8 (low / 65536)
    (s.rcDelayed = none → encShift s = some { u with rcDelayed := some byte }) ∧
    (∀ d, s.rcDelayed = some d → low + range < 2 ^ 24 →
      encShift s = some { u with
        snk := s.snk ++ d :: List.replicate s.rcPending.toNat 0xFF, rcPending := 0, rcDelayed := some byte
        bytesOut := s.bytesOut + BitVec.ofNat 32 (1 + s.rcPending.toNat) }) ∧
    (∀ d, s.rcDelayed = some d → 2 ^ 24 ≤ low →
      encShift s = some { u with
        snk := s.snk ++ (d + 1) :: List.replicate s.rcPending.toNat 0x00, rcPending := 0, rcDelayed := some byte
        bytesOut := s.bytesOut + BitVec.ofNat 32 (1 + s.rcPending.toNat) }) ∧
    (∀ d, s.rcDelayed = some d → 2 ^ 24 ≤ low + range → low < 2 ^ 24 →
      encShift s = (if s.rcPending.toNat = 2 ^ s.cfg.pendW - 1 then none
        else some { u with rcPending := s.rcPending + 1 }))

/-- 40_range_coder R125 (the facts after it): from an interval a session can hand to EncRenorm, the byte of the first-byte
and no-carry branches fits in 8 bits, that of the undecided branch is 0xFF, the carry never wraps the delayed byte, and the
iteration hands on such an interval. -/
def Obligations.CarriesNeverWrap : Prop :=
  ∀ (s : State) (low range : Nat), low = s.rcLow.toNat → range = s.rcRange.toNat →
    1 ≤ range → range ≤ 2 ^ 16 → low + range ≤ 2 ^ 25 →
    (s.rcDelayed = none ∨ s.rcDelayed = some 0xFF → low + range ≤ 2 ^ 24) →
    (s.rcDelayed = none ∨ low + range < 2 ^ 24 → low / 65536 ≤ 0xFF) ∧
    (2 ^ 24 ≤ low + range → low < 2 ^ 24 → low / 65536 = 0xFF) ∧
    (∀ d, s.rcDelayed = some d → 2 ^ 24 ≤ low → d.toNat + 1 ≤ 0xFF) ∧
    (∀ t, encShift s = some t → t.rcLow.toNat + t.rcRange.toNat ≤ 2 ^ 25 ∧ t.rcDelayed ≠ none ∧
      (t.rcDelayed = some 0xFF → t.rcLow.toNat + t.rcRange.toNat ≤ 2 ^ 24))

/-- 40_range_coder R125, R130, R132, 41_bit_chance R168, 60_exceptions R272, R274: PENDING_OVERFLOW in an encoder session.
RC_ENC_P raises it when the first scaling it needs, or the second after a first one that left the carry undecided, finds the
carry undecided and the pending counter full; RC_FLUSH in the same way in its first or second shift. RC_LOW and RC_RANGE are
as before the failing scaling, so a completed one stands, RC_PENDING is full, and nothing else has changed. ENC_CTX leaves
what RC_ENC_P with its context as the chance leaves, with its own word in FAULT_INFO and no context updated. No other
command raises it, and no command that raises it has written a byte, a context, RC_DELAYED or MODE. -/
def Obligations.RcEncPFaultsOnAFullPendingCounter : Prop :=
  ∀ s : State, s.faulted = false → s.mode = .enc → encOk s → 1 ≤ s.cfg.pendW → s.cfg.pendW ≤ 32 →
    (∀ (bit : Bool) (p j : Nat), 1 ≤ p → p ≤ 4095 → j ≤ 1 → overflowsAt s (bitLow s p bit) (bitRange s p bit) j →
      exec (.rcEncP bit p) s = .next (overflowed (encodeWord (.rcEncP bit p)) (lowAfter (bitLow s p bit) j)
        (bitRange s p bit * 256 ^ j) s)) ∧
    (∀ (bit : Bool) (t ctx j : Nat) (v : Bool → BitVec 16), t < s.cfg.ntab → ctx < s.cfg.nctx → ctxRead s ctx ≠ 0 →
      (∀ b, tblEntry s t b (ctxRead s ctx).toNat = some (v b) ∧ 1 ≤ (v b).toNat ∧ (v b).toNat ≤ 4095) →
      j ≤ 1 → overflowsAt s (bitLow s (ctxRead s ctx).toNat bit) (bitRange s (ctxRead s ctx).toNat bit) j →
      ∃ u, exec (.rcEncP bit (ctxRead s ctx).toNat) s = .next u ∧ u.ctx = s.ctx ∧
        exec (.encCtx t bit ctx) s = .next { u with faultInfo := encodeWord (.encCtx t bit ctx) }) ∧
    (∀ j ≤ 1, flushOverflowsAt s j →
      exec .rcFlush s = .next (overflowed (encodeWord .rcFlush) (lowAfter (s.rcLow.toNat + 0xFFFF) j) 0xFFFF s)) ∧
    (∀ (i : Instr) (t : State), wellFormed i = true → exec i s = .next t → answered s t (.fault .pendingOverflow) →
      ((∃ bit p, i = .rcEncP bit p) ∨ (∃ k bit ctx, i = .encCtx k bit ctx) ∨ i = .rcFlush) ∧
      t = overflowed (encodeWord i) t.rcLow.toNat t.rcRange.toNat s)

/-- 40_range_coder R132, R135: in an encoder session RC_FLUSH ends the session, writes every byte held back and three more,
and leaves RC_LOW 0, RC_RANGE 0xFFFF00, nothing pending and a delayed 0x00, unless one of its first two shifts finds the
carry undecided and the pending counter full (RcEncPFaultsOnAFullPendingCounter). -/
def Obligations.RcFlushEndsTheSession : Prop :=
  ∀ s : State,
    s.faulted = false → s.mode = .enc → encOk s → 1 ≤ s.cfg.pendW → s.cfg.pendW ≤ 32 →
    s.rcPending.toNat < 2 ^ s.cfg.pendW → (∀ j ≤ 1, ¬ flushOverflowsAt s j) →
    ∃ t, exec .rcFlush s = .next t ∧ answered s t (.ok []) ∧ frameEncode { s with mode := .idle } t ∧
      t.faulted = false ∧ t.cause = s.cause ∧ t.faultInfo = s.faultInfo ∧
      t.rcLow = 0 ∧ t.rcRange = 0x00FFFF00 ∧ t.rcPending = 0 ∧ t.rcDelayed = some 0x00 ∧
      t.snk.length = s.snk.length + unwritten s + 3 ∧
      t.bytesOut = s.bytesOut + BitVec.ofNat 32 (t.snk.length - s.snk.length)

/-- 40_range_coder R126, R127, R131: in a decoder session whose source has the bytes the refill needs, RC_DEC_P answers
P_BIT when the offset lies in the top `Chance` of the interval and the other bit otherwise, and shifts those bytes in. -/
def Obligations.RcDecPDecodesTheBit : Prop :=
  ∀ (s : State) (p : Nat), s.faulted = false → s.mode = .dec → s.hold = none → decOk s → 1 ≤ p → p ≤ 4095 →
    let rest := s.rcRange.toNat - chance p s.rcRange.toNat
    let top : Prop := rest ≤ s.rcLow.toNat
    let low := if top then s.rcLow.toNat - rest else s.rcLow.toNat
    let range := if top then chance p s.rcRange.toNat else rest
    let k := shiftsFor range
    k ≤ s.src.length →
    exec (.rcDecP p) s = .next { s with
      rcLow := BitVec.ofNat 32 (foldBytes low (s.src.take k)), rcRange := BitVec.ofNat 32 (range * 256 ^ k)
      bytesIn := s.bytesIn + BitVec.ofNat 32 k, src := s.src.drop k
      resp := s.resp ++ [.ok [if s.cfg.pBit = decide top then 1 else 0]] } ∧
    foldBytes low (s.src.take k) < range * 256 ^ k ∧ 2 ^ 16 < range * 256 ^ k ∧ range * 256 ^ k ≤ 2 ^ 24

/-- 40_range_coder R127, R131, 60_exceptions R274, 20_memory R74: when the source has fewer bytes than the refill needs,
RC_DEC_P shifts in those there are; then it raises STREAM_TRUNCATED if the source has ended, and holds if it has not. -/
def Obligations.RcDecPOnAShortSource : Prop :=
  ∀ (s : State) (p : Nat), s.faulted = false → s.mode = .dec → s.hold = none → decOk s → 1 ≤ p → p ≤ 4095 →
    let rest := s.rcRange.toNat - chance p s.rcRange.toNat
    let top : Prop := rest ≤ s.rcLow.toNat
    let low := if top then s.rcLow.toNat - rest else s.rcLow.toNat
    let range := if top then chance p s.rcRange.toNat else rest
    s.src.length < shiftsFor range →
    let u : State := { s with
      rcLow := BitVec.ofNat 32 (foldBytes low s.src), rcRange := BitVec.ofNat 32 (range * 256 ^ s.src.length)
      bytesIn := s.bytesIn + BitVec.ofNat 32 s.src.length, src := [] }
    (s.srcEof = true → exec (.rcDecP p) s = .next { u with
      faulted := true, cause := .streamTruncated, faultInfo := encodeWord (.rcDecP p)
      resp := s.resp ++ [.fault .streamTruncated] }) ∧
    (s.srcEof = false → ∃ bit, (bit = true ↔ (s.cfg.pBit = true ↔ top)) ∧
      exec (.rcDecP p) s = .next { u with hold := some ⟨encodeWord (.rcDecP p), .refill bit none⟩ })

/-- 40_range_coder R130 to R132, 41_bit_chance R168, R169, 60_exceptions R276: a coding command without its session raises
MODE_ERROR; with its session, a chance of 0 raises BAD_CHANCE. -/
def Obligations.CodingCommandsNeedTheirSession : Prop :=
  ∀ (s : State) (bit : Bool) (p t ctx : Nat), s.faulted = false →
    let faults (i : Instr) (c : Cause) : Prop := ∃ u, exec i s = .next u ∧ faultedBy (encodeWord i) c s u
    (s.mode ≠ .enc → faults (.rcEncP bit p) .modeError ∧ faults .rcFlush .modeError ∧
      (t < s.cfg.ntab → ctx < s.cfg.nctx → faults (.encCtx t bit ctx) .modeError)) ∧
    (s.mode ≠ .dec → faults (.rcDecP p) .modeError ∧
      (t < s.cfg.ntab → ctx < s.cfg.nctx → faults (.decCtx t ctx) .modeError)) ∧
    (s.mode = .enc → faults (.rcEncP bit 0) .badChance) ∧
    (s.mode = .dec → faults (.rcDecP 0) .badChance)

/-- 40_range_coder R134, 70_reset_and_hazards R310: the round trip. A session that codes bits by RC_ENC_P and ENC_CTX and
is flushed without a fault writes a stream from which the twin commands, on equal parameters, contexts and tables, return
the same bits without a fault, reading exactly the stream and leaving equal contexts. -/
def Obligations.DecoderReturnsTheEncodedBits : Prop :=
  ∀ (cs : List CodedBit) (s u d : State),
    Inv s → s.snk = [] → (∀ c ∈ cs, wellFormed c.encoder = true) →
    execAll (.rcStartEnc :: (cs.map CodedBit.encoder ++ [.rcFlush])) s = .next u → u.faulted = false →
    Inv d → d.faulted = false → d.hold = none → d.cfg = s.cfg → d.ctx = s.ctx → d.tbl = s.tbl →
    d.src = u.snk → d.srcEof = true →
    ∃ v, execAll (.rcStartDec :: cs.map CodedBit.decoder) d = .next v ∧ v.faulted = false ∧
      v.resp = d.resp ++ .ok [] :: cs.map (fun c => .ok [if c.bit then 1 else 0]) ∧
      v.src = [] ∧ v.bytesIn = BitVec.ofNat 32 u.snk.length ∧ v.ctx = u.ctx

/-! ### Contexts -/

/-- 41_bit_chance R163: BC_CLEAR sets every context to 0x800 and changes nothing else. -/
def Obligations.BcClearResetsEveryContext : Prop :=
  ∀ s : State, s.faulted = false →
    ∃ t, exec .bcClear s = .next t ∧ (∀ i, ctxRead t i = 0x800) ∧
      t = { s with ctx := t.ctx, resp := s.resp ++ [.ok []] }

/-- 41_bit_chance R164: BC_SET of a value in [1, 4095] writes one context and changes nothing else. -/
def Obligations.BcSetWritesOneContext : Prop :=
  ∀ (s : State) (ctx : Nat) (v : Word), s.faulted = false → ctx < s.cfg.nctx → 1 ≤ v.toNat → v.toNat ≤ 4095 →
    ∃ t, exec (.bcSet ctx v) s = .next t ∧ (ctxRead t ctx).toNat = v.toNat ∧
      (∀ k, k ≠ ctx → ctxRead t k = ctxRead s k) ∧ t = { s with ctx := t.ctx, resp := s.resp ++ [.ok []] }

/-- 41_bit_chance R165: BC_GET answers one context and changes nothing. -/
def Obligations.BcGetAnswersTheContext : Prop :=
  ∀ (s : State) (ctx : Nat), s.faulted = false → ctx < s.cfg.nctx →
    exec (.bcGet ctx) s = .next { s with resp := s.resp ++ [.ok [(ctxRead s ctx).setWidth 32]] }

/-- 41_bit_chance R161, R166: with both rows' entries set and in [1, 4095], BC_PUT replaces one context by the entry of its
bit's row and changes nothing else. -/
def Obligations.BcPutReplacesTheContext : Prop :=
  ∀ (s : State) (t ctx : Nat) (bit : Bool) (v : Bool → BitVec 16),
    s.faulted = false → t < s.cfg.ntab → ctx < s.cfg.nctx →
    (∀ b, tblEntry s t b (ctxRead s ctx).toNat = some (v b) ∧ 1 ≤ (v b).toNat ∧ (v b).toNat ≤ 4095) →
    ∃ u, exec (.bcPut t bit ctx) s = .next u ∧ (ctxRead u ctx).toNat = (v bit).toNat ∧
      (∀ k, k ≠ ctx → ctxRead u k = ctxRead s k) ∧ u = { s with ctx := u.ctx, resp := s.resp ++ [.ok []] }

/-- 41_bit_chance R167, 60_exceptions R276: CheckNext. With its indexes in range (and, for the coding commands, its
session open), a command that updates a context raises TABLE_UNSET when either row's entry for the state is UNSET, and
otherwise BAD_CHANCE when either is outside [1, 4095], whatever the bit. -/
def Obligations.UpdatesCheckBothRows : Prop :=
  ∀ (s : State) (t ctx : Nat) (bit b : Bool),
    s.faulted = false → t < s.cfg.ntab → ctx < s.cfg.nctx →
    let entry (x : Bool) := tblEntry s t x (ctxRead s ctx).toNat
    let faults (i : Instr) (c : Cause) : Prop := ∃ u, exec i s = .next u ∧ faultedBy (encodeWord i) c s u
    let all (c : Cause) : Prop :=
      faults (.bcPut t bit ctx) c ∧ (s.mode = .enc → faults (.encCtx t bit ctx) c) ∧
        (s.mode = .dec → faults (.decCtx t ctx) c)
    (entry b = none → all .tableUnset) ∧
    (entry false ≠ none → entry true ≠ none → (∃ v, entry b = some v ∧ (v.toNat < 1 ∨ 4095 < v.toNat)) →
      all .badChance)

/-- 41_bit_chance R168: ENC_CTX codes its bit with the context as the chance, exactly as RC_ENC_P would, and then replaces
the context by the entry of the bit's row, unless the coding overflows the pending counter (RcEncPFaultsOnAFullPendingCounter). -/
def Obligations.EncCtxCodesThenUpdates : Prop :=
  ∀ (s : State) (t ctx : Nat) (bit : Bool) (v : Bool → BitVec 16),
    s.faulted = false → s.mode = .enc → encOk s → 1 ≤ s.cfg.pendW → s.cfg.pendW ≤ 32 →
    s.rcPending.toNat < 2 ^ s.cfg.pendW → t < s.cfg.ntab → ctx < s.cfg.nctx → ctxRead s ctx ≠ 0 →
    (∀ b, tblEntry s t b (ctxRead s ctx).toNat = some (v b) ∧ 1 ≤ (v b).toNat ∧ (v b).toNat ≤ 4095) →
    (∀ j ≤ 1, ¬ overflowsAt s (bitLow s (ctxRead s ctx).toNat bit) (bitRange s (ctxRead s ctx).toNat bit) j) →
    ∃ u w, exec (.rcEncP bit (ctxRead s ctx).toNat) s = .next u ∧ u.faulted = false ∧
      exec (.encCtx t bit ctx) s = .next w ∧ w = { u with ctx := w.ctx } ∧
      (ctxRead w ctx).toNat = (v bit).toNat ∧ (∀ k, k ≠ ctx → ctxRead w k = ctxRead s k)

/-- 41_bit_chance R169: DEC_CTX, with the bytes its refill needs in the source, decodes a bit with the context as the
chance, exactly as RC_DEC_P would, and then replaces the context by the entry of that bit's row. -/
def Obligations.DecCtxDecodesThenUpdates : Prop :=
  ∀ (s : State) (t ctx : Nat) (v : Bool → BitVec 16),
    s.faulted = false → s.mode = .dec → s.hold = none → decOk s → t < s.cfg.ntab → ctx < s.cfg.nctx →
    ctxRead s ctx ≠ 0 →
    (∀ b, tblEntry s t b (ctxRead s ctx).toNat = some (v b) ∧ 1 ≤ (v b).toNat ∧ (v b).toNat ≤ 4095) →
    let c := chance (ctxRead s ctx).toNat s.rcRange.toNat
    shiftsFor (if s.rcRange.toNat - c ≤ s.rcLow.toNat then c else s.rcRange.toNat - c) ≤ s.src.length →
    ∃ u w bit, exec (.rcDecP (ctxRead s ctx).toNat) s = .next u ∧ u.faulted = false ∧
      answered s u (.ok [if bit then 1 else 0]) ∧
      exec (.decCtx t ctx) s = .next w ∧ w = { u with ctx := w.ctx } ∧
      (ctxRead w ctx).toNat = (v bit).toNat ∧ (∀ k, k ≠ ctx → ctxRead w k = ctxRead s k)

/-- 41_bit_chance R169, 60_exceptions R274: a DEC_CTX that raises STREAM_TRUNCATED leaves every context as it was and the
coder as RC_DEC_P would leave it, in mode DEC. -/
def Obligations.TruncatedDecCtxKeepsTheContexts : Prop :=
  ∀ (s w : State) (t ctx : Nat),
    s.faulted = false → s.hold = none → ctxRead s ctx ≠ 0 →
    exec (.decCtx t ctx) s = .next w → answered s w (.fault .streamTruncated) →
    w.ctx = s.ctx ∧ w.mode = .dec ∧ w.faulted = true ∧ w.cause = .streamTruncated ∧ w.src = [] ∧
      ∃ u, exec (.rcDecP (ctxRead s ctx).toNat) s = .next u ∧ u.rcLow = w.rcLow ∧ u.rcRange = w.rcRange ∧
        u.bytesIn = w.bytesIn

/-! ### Tables -/

/-- 41_bit_chance R170, R171, R172: TBL_BUILD loads row P_BIT with `up` and the other row with `dn`, 4096 entries each,
records `(cut, alpha)`, and changes nothing else; with the default BUILD_FN the rows are `specUp` and `mirrorRow`, whose
entries DefaultTablesStayInsideTheClamps gives. -/
def Obligations.TblBuildLoadsBothRows : Prop :=
  ∀ (s : State) (t cut : Nat) (alpha : Word), s.faulted = false → t < s.cfg.ntab → 1 ≤ cut → cut ≤ 15 → alpha ≠ 0 →
    let rows := buildFn s.cfg.buildFn cut alpha.toNat
    rows.1.length = 4096 ∧ rows.2.length = 4096 ∧
    ∃ u, exec (.tblBuild t cut alpha) s = .next u ∧
      (∀ st < 4096, tblEntry u t s.cfg.pBit st = rows.1[st]? ∧ tblEntry u t (!s.cfg.pBit) st = rows.2[st]?) ∧
      (s.cfg.buildFn = .spec → ∀ st < 4096,
        tblEntry u t s.cfg.pBit st = some (BitVec.ofNat 16 ((specUp cut alpha.toNat).getD st 0)) ∧
        tblEntry u t (!s.cfg.pBit) st = some (BitVec.ofNat 16 ((mirrorRow (specUp cut alpha.toNat)).getD st 0))) ∧
      (∀ k b st, k ≠ t → st < 4096 → tblEntry u k b st = tblEntry s k b st) ∧
      (tblCutOf u t).toNat = cut ∧ tblAlphaOf u t = alpha ∧
      (∀ k, k ≠ t → tblCutOf u k = tblCutOf s k ∧ tblAlphaOf u k = tblAlphaOf s k) ∧
      u = { s with tbl := u.tbl, tblCut := u.tblCut, tblAlpha := u.tblAlpha, resp := s.resp ++ [.ok []] }

/-- 41_bit_chance R173, R174: TBL_WRITE of a 16-bit value stores one entry, sets TBL_CUT and TBL_ALPHA of its table to 0
and changes nothing else; TBL_READ answers an entry that is set and changes nothing. -/
def Obligations.TblWriteStoresAndTblReadAnswers : Prop :=
  ∀ (s : State) (t : Nat) (b : Bool) (st : Nat), s.faulted = false → t < s.cfg.ntab → st < 4096 →
    (∀ v : Word, v.toNat ≤ 0xFFFF →
      ∃ u, exec (.tblWrite t b st v) s = .next u ∧ tblEntry u t b st = some (v.setWidth 16) ∧
        (∀ k c x, x < 4096 → (k ≠ t ∨ c ≠ b ∨ x ≠ st) → tblEntry u k c x = tblEntry s k c x) ∧
        tblCutOf u t = 0 ∧ tblAlphaOf u t = 0 ∧
        (∀ k, k ≠ t → tblCutOf u k = tblCutOf s k ∧ tblAlphaOf u k = tblAlphaOf s k) ∧
        u = { s with tbl := u.tbl, tblCut := u.tblCut, tblAlpha := u.tblAlpha, resp := s.resp ++ [.ok []] }) ∧
    (∀ v : BitVec 16, tblEntry s t b st = some v →
      exec (.tblRead t b st) s = .next { s with resp := s.resp ++ [.ok [v.setWidth 32]] })

/-- 41_bit_chance R164 to R169, R172 to R174, 60_exceptions R276: the index and value faults of the context and table
commands. An index out of range raises BAD_INDEX, whatever the other operands and the mode; a value out of range BAD_PARAM;
TBL_READ of an UNSET entry TABLE_UNSET. -/
def Obligations.ArrayCommandsCheckTheirOperands : Prop :=
  ∀ (s : State) (t ctx cut st : Nat) (bit : Bool) (v : Word), s.faulted = false →
    let faults (i : Instr) (c : Cause) : Prop := ∃ u, exec i s = .next u ∧ faultedBy (encodeWord i) c s u
    (s.cfg.nctx ≤ ctx → faults (.bcSet ctx v) .badIndex ∧ faults (.bcGet ctx) .badIndex) ∧
    (s.cfg.ntab ≤ t ∨ s.cfg.nctx ≤ ctx →
      faults (.bcPut t bit ctx) .badIndex ∧ faults (.encCtx t bit ctx) .badIndex ∧ faults (.decCtx t ctx) .badIndex) ∧
    (s.cfg.ntab ≤ t → faults (.tblBuild t cut v) .badIndex ∧ faults (.tblWrite t bit st v) .badIndex ∧
      faults (.tblRead t bit st) .badIndex) ∧
    (ctx < s.cfg.nctx → (v.toNat < 1 ∨ 4095 < v.toNat) → faults (.bcSet ctx v) .badParam) ∧
    (t < s.cfg.ntab → (cut = 0 ∨ v = 0) → faults (.tblBuild t cut v) .badParam) ∧
    (t < s.cfg.ntab → 0xFFFF < v.toNat → faults (.tblWrite t bit st v) .badParam) ∧
    (t < s.cfg.ntab → tblEntry s t bit st = none → faults (.tblRead t bit st) .tableUnset)

/-- 41_bit_chance R171, R175 items 1, 2, 4 and 5: an entry of the default `up` in [cut, 4096 - cut] is the next state of the
path where the first pass writes it, and what the second pass gives elsewhere; the first pass writes no entry twice. The
tables keep a state of [cut, 4096 - cut] there, rise in one row and fall in the other but at the clamps, mirror each other,
and hold 0 and 4096 exactly outside. -/
def Obligations.DefaultTablesStayInsideTheClamps : Prop :=
  ∀ cut alpha : Nat, 1 ≤ cut → cut ≤ 15 → 1 ≤ alpha → alpha < 2 ^ 32 →
    let m := 4096 - cut
    let up (i : Nat) := (specUp cut alpha).getD i 0
    let dn (i : Nat) := (mirrorRow (specUp cut alpha)).getD i 0
    (∀ i, cut ≤ i → i ≤ m →
      (∀ n < 2048, pathState alpha n = i → pathState alpha (n + 1) ≤ m → up i = pathState alpha (n + 1)) ∧
      ((∀ n < 2048, pathState alpha n = i → m < pathState alpha (n + 1)) → up i = gapState alpha m i)) ∧
    (∀ n, pathState alpha n < pathState alpha (n + 1)) ∧
    (specUp cut alpha).length = 4096 ∧ (mirrorRow (specUp cut alpha)).length = 4096 ∧
    (∀ i, cut ≤ i → i ≤ m → cut ≤ up i ∧ up i ≤ m ∧ cut ≤ dn i ∧ dn i ≤ m) ∧
    (∀ i, cut ≤ i → i < m → i < up i) ∧ up m = m ∧
    (∀ i, cut < i → i ≤ m → dn i < i) ∧ dn cut = cut ∧
    (∀ i, 1 ≤ i → i ≤ 4095 → dn i = 4096 - up (4096 - i)) ∧ dn 0 = 0 ∧
    (∀ i, i ≤ 4095 → (i < cut ∨ m < i) → up i = 0 ∧ (1 ≤ i → dn i = 4096))

/-! ### YCoCg -/

/-- 42_ycocg R205: the inverse undoes the forward transform on all integers. -/
def Obligations.YccInverseUndoesForward : Prop :=
  ∀ r g b : Int, yccInverse (yccForward r g b).x (yccForward r g b).y (yccForward r g b).z = ⟨r, g, b⟩

/-- 42_ycocg R201: YCC_INIT attaches to three planes with `0 ≤ min < max` and maxima within YC_MAXV, refuses others with
an answer of 0, and raises YCC_DOMAIN when a maximum passes YC_MAXV. -/
def Obligations.YccInitAttachesOrRefuses : Prop :=
  ∀ (s : State) (np : Nat) (min0 max0 min1 max1 min2 max2 : Word), s.faulted = false → s.cfg.ycMaxV ≤ 67108863 →
    let i : Instr := .yccInit np min0 max0 min1 max1 min2 max2
    let ok : Prop := 3 ≤ np ∧ (0 ≤ min0.toInt ∧ min0.toInt < max0.toInt) ∧ (0 ≤ min1.toInt ∧ min1.toInt < max1.toInt) ∧
      (0 ≤ min2.toInt ∧ min2.toInt < max2.toInt)
    let top := max (max max0.toNat max1.toNat) max2.toNat
    (ok → top ≤ s.cfg.ycMaxV → exec i s = .next { s with
      attached := true, ycPar := BitVec.ofNat 32 (top / 4 + 1), ycMax0 := max0, ycMax1 := max1, ycMax2 := max2
      resp := s.resp ++ [.ok [1]] }) ∧
    (¬ ok → exec i s = .next { s with
      attached := false, ycPar := 0, ycMax0 := 0, ycMax1 := 0, ycMax2 := 0, resp := s.resp ++ [.ok [0]] }) ∧
    (ok → s.cfg.ycMaxV < top → ∃ t, exec i s = .next t ∧ faultedBy (encodeWord i) .yccDomain s t)

/-- 42_ycocg R202, R203, R206, R217: YCC_FWD of a pixel within the plane maxima answers `Fwd`, whose values lie in the
unconditional ranges, and changes nothing. -/
def Obligations.YccFwdTransformsThePixel : Prop :=
  ∀ (s : State) (r g b : Word), Inv s → s.faulted = false → s.attached = true →
    0 ≤ r.toInt → r.toInt ≤ s.ycMax0.toNat → 0 ≤ g.toInt → g.toInt ≤ s.ycMax1.toNat →
    0 ≤ b.toInt → b.toInt ≤ s.ycMax2.toNat →
    let par : Int := s.ycPar.toNat
    let h := (r.toInt + b.toInt) / 2
    ∃ y co cg : Word,
      exec (.yccFwd r g b) s = .next { s with resp := s.resp ++ [.ok [y, co, cg]] } ∧
      y.toInt = (h + g.toInt) / 2 ∧ co.toInt = r.toInt - b.toInt - 1 ∧ cg.toInt = h - g.toInt - 1 ∧
      (0 ≤ y.toInt ∧ y.toInt ≤ 4 * par - 1) ∧ (-4 * par ≤ co.toInt ∧ co.toInt ≤ 4 * par - 2) ∧
      (-4 * par ≤ cg.toInt ∧ cg.toInt ≤ 4 * par - 2)

/-- 42_ycocg R204, R207: YCC_INV answers `Inv`, clipped to the planes when CLIP is 1; with CLIP 0 it answers the exact
values when they fit in 32 bits and raises YCC_DOMAIN when one does not. It changes nothing else. -/
def Obligations.YccInvTransformsBack : Prop :=
  ∀ (s : State) (y co cg : Word), Inv s → s.faulted = false → s.attached = true →
    let a := y.toInt
    let r := a + (cg.toInt + 2) / 2 + (co.toInt + 2) / 2
    let g := a - (cg.toInt + 1) / 2
    let b := a + (cg.toInt + 2) / 2 - (co.toInt + 1) / 2
    let fits (v : Int) : Prop := -2 ^ 31 ≤ v ∧ v ≤ 2 ^ 31 - 1
    (s.ctrl = 1 → ∃ p q z : Word,
      exec (.yccInv y co cg) s = .next { s with resp := s.resp ++ [.ok [p, q, z]] } ∧
      p.toInt = min (max r 0) s.ycMax0.toNat ∧ q.toInt = min (max g 0) s.ycMax1.toNat ∧
      z.toInt = min (max b 0) s.ycMax2.toNat) ∧
    (s.ctrl = 0 → fits r ∧ fits g ∧ fits b → ∃ p q z : Word,
      exec (.yccInv y co cg) s = .next { s with resp := s.resp ++ [.ok [p, q, z]] } ∧
      p.toInt = r ∧ q.toInt = g ∧ z.toInt = b) ∧
    (s.ctrl = 0 → ¬ (fits r ∧ fits g ∧ fits b) →
      ∃ t, exec (.yccInv y co cg) s = .next t ∧ faultedBy (encodeWord (.yccInv y co cg)) .yccDomain s t)

/-- 42_ycocg R208 to R215: the range commands of an attached transform answer the ranges, as signed words, for `y` in
[0, 4 par - 1]; YCC_RANGE_CG answers the sentinel outside the window of `co`, inside it a range that holds the tight one,
and the tight one itself with the default CG_FN. They change nothing. -/
def Obligations.YccRangesAnswerTheOracle : Prop :=
  ∀ (s : State) (y co : Word), Inv s → s.faulted = false → s.attached = true →
    let par : Int := s.ycPar.toNat
    (∃ hi : Word, hi.toInt = 4 * par - 1 ∧
      exec .yccRangeY s = .next { s with resp := s.resp ++ [.ok [0, hi]] }) ∧
    (0 ≤ y.toInt → y.toInt ≤ 4 * par - 1 →
      (∃ lo hi : Word, lo.toInt = minCo par y.toInt ∧ hi.toInt = maxCo par y.toInt ∧
        exec (.yccRangeCo y) s = .next { s with resp := s.resp ++ [.ok [lo, hi]] }) ∧
      (∃ lo hi : Word,
        exec (.yccRangeCg y co) s = .next { s with resp := s.resp ++ [.ok [lo, hi]] } ∧
        (if minCo par y.toInt ≤ co.toInt ∧ co.toInt ≤ maxCo par y.toInt then
          lo.toInt ≤ tightMinCg par y.toInt co.toInt ∧ tightMaxCg par y.toInt co.toInt ≤ hi.toInt ∧
          (s.cfg.cgFn = .spec → lo.toInt = tightMinCg par y.toInt co.toInt ∧ hi.toInt = tightMaxCg par y.toInt co.toInt)
        else lo.toInt = 8 * par ∧ hi.toInt = -8 * par)))

/-- 42_ycocg R206, R207, R210, R211, R215, 60_exceptions R276: every YC command but YCC_INIT raises NOT_ATTACHED while the
transform is detached; attached, YCC_FWD raises YCC_DOMAIN outside the plane maxima and the conditional range commands for
`y` outside [0, 4 par - 1]. -/
def Obligations.YccCommandsCheckTheirOperands : Prop :=
  ∀ (s : State) (x y z : Word), s.faulted = false →
    let faults (i : Instr) (c : Cause) : Prop := ∃ u, exec i s = .next u ∧ faultedBy (encodeWord i) c s u
    (s.attached = false → faults (.yccFwd x y z) .notAttached ∧ faults (.yccInv x y z) .notAttached ∧
      faults .yccRangeY .notAttached ∧ faults (.yccRangeCo y) .notAttached ∧ faults (.yccRangeCg y z) .notAttached) ∧
    (s.attached = true →
      (x.toInt < 0 ∨ (s.ycMax0.toNat : Int) < x.toInt ∨ y.toInt < 0 ∨ (s.ycMax1.toNat : Int) < y.toInt ∨
        z.toInt < 0 ∨ (s.ycMax2.toNat : Int) < z.toInt → faults (.yccFwd x y z) .yccDomain) ∧
      (y.toInt < 0 ∨ 4 * (s.ycPar.toNat : Int) - 1 < y.toInt →
        faults (.yccRangeCo y) .yccDomain ∧ faults (.yccRangeCg y z) .yccDomain))

/-- 42_ycocg R209, R213, R214, R216: over the cube [0, 4 par - 1]^3 the oracle is exact for every `par`: a triple is the
transform of a pixel of the cube exactly when `y` is in range, `co` in the window of `y` and `cg` in the tight range; and
that range is never empty inside the window. -/
def Obligations.RangeOracleIsExact : Prop :=
  ∀ par y co cg : Int, 1 ≤ par →
    ((∃ r g b, (0 ≤ r ∧ r ≤ 4 * par - 1) ∧ (0 ≤ g ∧ g ≤ 4 * par - 1) ∧ (0 ≤ b ∧ b ≤ 4 * par - 1) ∧
        yccForward r g b = ⟨y, co, cg⟩) ↔
      (0 ≤ y ∧ y ≤ 4 * par - 1) ∧ (minCo par y ≤ co ∧ co ≤ maxCo par y) ∧
        tightMinCg par y co ≤ cg ∧ cg ≤ tightMaxCg par y co) ∧
    (0 ≤ y → y ≤ 4 * par - 1 → minCo par y ≤ co → co ≤ maxCo par y → tightMinCg par y co ≤ tightMaxCg par y co)
end

