-- ==== Sys2Proof/Laws/Cells.lean ====
section
/-! SUPPORT. Arrays as sorted lists: a read after a write, and that every operation keeps the canonical form. -/

namespace Sys2Proof.Machine

variable {α : Type}

/-! ### Reads after writes -/

@[simp] theorem cellFind_nil (k : Nat) : cellFind ([] : List (Nat × α)) k = none := rfl

theorem cellFind_cons (j k : Nat) (v : α) (m : List (Nat × α)) :
    cellFind ((j, v) :: m) k = if j = k then some v else cellFind m k := rfl

theorem cellFind_append (m n : List (Nat × α)) (k : Nat) :
    cellFind (m ++ n) k = (cellFind m k).or (cellFind n k) := by
  induction m with
  | nil => simp
  | cons x m ih =>
    obtain ⟨j, v⟩ := x
    simp only [List.cons_append, cellFind_cons]
    split <;> simp_all

theorem cellFind_put (m : List (Nat × α)) (k i : Nat) (v : α) :
    cellFind (cellPut m k v) i = if i = k then some v else cellFind m i := by
  induction m with
  | nil =>
    rw [cellPut, cellFind_cons]
    grind
  | cons x m ih =>
    obtain ⟨j, u⟩ := x
    rw [cellPut]
    split
    · grind [cellFind_cons]
    · split
      · grind [cellFind_cons]
      · rw [cellFind_cons, ih, cellFind_cons]
        grind

/-- Filtering by index either keeps a lookup or empties it. -/
theorem cellFind_filter (m : List (Nat × α)) (p : Nat → Bool) (k : Nat) :
    cellFind (m.filter (fun x => p x.1)) k = if p k then cellFind m k else none := by
  induction m with
  | nil => simp
  | cons x m ih =>
    obtain ⟨j, v⟩ := x
    rw [List.filter_cons]
    by_cases hj : j = k
    · subst hj
      cases h : p j <;> simp_all [cellFind_cons]
    · cases h : p j <;> simp_all [cellFind_cons]

theorem cellFind_erase (m : List (Nat × α)) (k i : Nat) :
    cellFind (cellErase m k) i = if i = k then none else cellFind m i := by
  rw [cellErase, cellFind_filter m (fun j => !(j == k))]
  by_cases h : i = k <;> simp [h]

/-- A read after a write: the value written at its index, what stood there everywhere else. -/
theorem cellGet_set [DecidableEq α] (d : α) (m : List (Nat × α)) (k i : Nat) (v : α) :
    cellGet d (cellSet d m k v) i = if i = k then v else cellGet d m i := by
  unfold cellGet cellSet
  split
  · rw [cellFind_erase]
    split <;> simp_all
  · rw [cellFind_put]
    split <;> rfl

theorem cellGet_set_self [DecidableEq α] (d : α) (m : List (Nat × α)) (k : Nat) (v : α) :
    cellGet d (cellSet d m k v) k = v := by simp [cellGet_set]

theorem cellGet_set_other [DecidableEq α] (d : α) (m : List (Nat × α)) {k i : Nat} (v : α) (h : i ≠ k) :
    cellGet d (cellSet d m k v) i = cellGet d m i := by simp [cellGet_set, h]

theorem cellFind_row (k i : Nat) (vs : List α) :
    cellFind (cellRow k vs) i = if k ≤ i then vs[i - k]? else none := by
  induction vs generalizing k with
  | nil => simp [cellRow]
  | cons v vs ih =>
    rw [cellRow, cellFind_cons, ih]
    by_cases h : k = i
    · simp [h]
    · by_cases h' : k ≤ i
      · have h1 : i - k = (i - (k + 1)) + 1 := by omega
        have h2 : k + 1 ≤ i := by omega
        simp [h, h', h2, h1]
      · have h2 : ¬ k + 1 ≤ i := by omega
        simp [h, h', h2]

/-- A read after a block is replaced: the new block's entries inside, what stood there outside. -/
theorem cellFind_block (m new : List (Nat × α)) (lo hi i : Nat) (hnew : ∀ j, (j < lo ∨ hi ≤ j) → cellFind new j = none)
    (hlh : lo ≤ hi) :
    cellFind (cellBlock m lo hi new) i = if lo ≤ i ∧ i < hi then cellFind new i else cellFind m i := by
  unfold cellBlock
  rw [cellFind_append, cellFind_append, cellFind_filter m (fun j => decide (j < lo)),
    cellFind_filter m (fun j => decide (hi ≤ j))]
  by_cases h1 : i < lo
  · have : ¬ (lo ≤ i ∧ i < hi) := by omega
    have h2 : ¬ hi ≤ i := by omega
    simp [this, h1, h2, hnew i (Or.inl h1)]
  · by_cases h2 : hi ≤ i
    · have : ¬ (lo ≤ i ∧ i < hi) := by omega
      simp [this, h1, h2, hnew i (Or.inr h2)]
    · have : lo ≤ i ∧ i < hi := by omega
      simp [this, h1, h2]

/-! ### The canonical form -/

theorem cellPut_mem {m : List (Nat × α)} {k : Nat} {v : α} {x : Nat × α} (h : x ∈ cellPut m k v) :
    x = (k, v) ∨ x ∈ m := by
  induction m with
  | nil => simpa [cellPut] using h
  | cons y m ih =>
    rw [cellPut] at h
    split at h
    · simpa using h
    · split at h
      · simp only [List.mem_cons] at h ⊢; tauto
      · simp only [List.mem_cons] at h ⊢
        rcases h with h | h
        · exact Or.inr (Or.inl h)
        · rcases ih h with h | h
          · exact Or.inl h
          · exact Or.inr (Or.inr h)

theorem cellPut_sorted {m : List (Nat × α)} (h : cellsSorted m) (k : Nat) (v : α) : cellsSorted (cellPut m k v) := by
  induction m with
  | nil => simp [cellPut, cellsSorted]
  | cons y m ih =>
    obtain ⟨j, u⟩ := y
    have hm : cellsSorted m := (List.pairwise_cons.1 h).2
    have hj : ∀ x ∈ m, j < x.1 := (List.pairwise_cons.1 h).1
    rw [cellPut]
    split
    · rename_i hk
      refine List.pairwise_cons.2 ⟨?_, h⟩
      intro x hx
      rcases List.mem_cons.1 hx with rfl | hx
      · exact hk
      · exact lt_trans hk (hj x hx)
    · split
      · rename_i hk
        exact List.pairwise_cons.2 ⟨by simpa [hk] using hj, hm⟩
      · rename_i h1 h2
        refine List.pairwise_cons.2 ⟨?_, ih hm⟩
        intro x hx
        rcases cellPut_mem hx with rfl | hx
        · show j < k
          omega
        · exact hj x hx

theorem cellErase_sorted {m : List (Nat × α)} (h : cellsSorted m) (k : Nat) : cellsSorted (cellErase m k) :=
  h.filter _

/-- A write keeps the canonical form. -/
theorem cellSet_wf [DecidableEq α] {d : α} {n : Nat} {m : List (Nat × α)} (h : cellsWf d n m) {k : Nat} (hk : k < n)
    (v : α) : cellsWf d n (cellSet d m k v) := by
  unfold cellSet
  split
  · exact ⟨cellErase_sorted h.1 k, fun x hx => h.2 x (List.mem_filter.1 hx).1⟩
  · rename_i hv
    refine ⟨cellPut_sorted h.1 k v, fun x hx => ?_⟩
    rcases cellPut_mem hx with rfl | hx
    · exact ⟨hk, hv⟩
    · exact h.2 x hx

/-- A write of a value with a property keeps an array all of whose entries have it. -/
theorem cellSet_forall [DecidableEq α] {d : α} {m : List (Nat × α)} {P : α → Prop} (h : ∀ x ∈ m, P x.2) {v : α}
    (hv : P v) (k : Nat) : ∀ x ∈ cellSet d m k v, P x.2 := by
  unfold cellSet
  split
  · exact fun x hx => h x (List.mem_filter.1 hx).1
  · intro x hx
    rcases cellPut_mem hx with rfl | hx
    · exact hv
    · exact h x hx

theorem cellPut_openWf {n : Nat} {m : List (Nat × α)} (h : cellsOpenWf n m) {k : Nat} (hk : k < n) (v : α) :
    cellsOpenWf n (cellPut m k v) := by
  refine ⟨cellPut_sorted h.1 k v, fun x hx => ?_⟩
  rcases cellPut_mem hx with rfl | hx
  · exact hk
  · exact h.2 x hx

theorem cellRow_mem {k : Nat} {vs : List α} {x : Nat × α} (h : x ∈ cellRow k vs) : k ≤ x.1 ∧ x.1 < k + vs.length := by
  induction vs generalizing k with
  | nil => simp [cellRow] at h
  | cons v vs ih =>
    rw [cellRow] at h
    rcases List.mem_cons.1 h with rfl | h
    · simp
    · have := ih h
      simp only [List.length_cons]
      omega

theorem cellRow_sorted (k : Nat) (vs : List α) : cellsSorted (cellRow k vs) := by
  induction vs generalizing k with
  | nil => simp [cellRow, cellsSorted]
  | cons v vs ih =>
    rw [cellRow]
    refine List.pairwise_cons.2 ⟨fun x hx => ?_, ih (k + 1)⟩
    have := (cellRow_mem hx).1
    show k < x.1
    omega

/-- Replacing a block by a sorted list within it keeps the form. -/
theorem cellBlock_openWf {n lo hi : Nat} {m new : List (Nat × α)} (h : cellsOpenWf n m) (hs : cellsSorted new)
    (hin : ∀ x ∈ new, lo ≤ x.1 ∧ x.1 < hi) (hlh : lo ≤ hi) (hn : hi ≤ n) : cellsOpenWf n (cellBlock m lo hi new) := by
  unfold cellBlock
  refine ⟨?_, fun x hx => ?_⟩
  · refine List.pairwise_append.2 ⟨List.pairwise_append.2 ⟨h.1.filter _, hs, ?_⟩, h.1.filter _, ?_⟩
    · intro x hx y hy
      have h1 : x.1 < lo := by simpa using (List.mem_filter.1 hx).2
      have h2 := (hin y hy).1
      omega
    · intro x hx y hy
      have h2 : hi ≤ y.1 := by simpa using (List.mem_filter.1 hy).2
      rcases List.mem_append.1 hx with hx | hx
      · have h1 : x.1 < lo := by simpa using (List.mem_filter.1 hx).2
        omega
      · have := (hin x hx).2
        omega
  · rcases List.mem_append.1 hx with hx | hx
    · rcases List.mem_append.1 hx with hx | hx
      · exact h.2 x (List.mem_filter.1 hx).1
      · have := (hin x hx).2
        omega
    · exact h.2 x (List.mem_filter.1 hx).1

end Sys2Proof.Machine
end

