-- ==== Sys2Proof/Laws/State.lean ====
section
/-! SUPPORT. What each named update of the state does to each field, true by definition. -/

namespace Sys2Proof.Machine

section
variable (ws : List Word) (s : State)

@[simp] theorem respondOk_cfg : (respondOk ws s).cfg = s.cfg := rfl
@[simp] theorem respondOk_mode : (respondOk ws s).mode = s.mode := rfl
@[simp] theorem respondOk_faulted : (respondOk ws s).faulted = s.faulted := rfl
@[simp] theorem respondOk_attached : (respondOk ws s).attached = s.attached := rfl
@[simp] theorem respondOk_cause : (respondOk ws s).cause = s.cause := rfl
@[simp] theorem respondOk_ctrl : (respondOk ws s).ctrl = s.ctrl := rfl
@[simp] theorem respondOk_faultInfo : (respondOk ws s).faultInfo = s.faultInfo := rfl
@[simp] theorem respondOk_bytesIn : (respondOk ws s).bytesIn = s.bytesIn := rfl
@[simp] theorem respondOk_bytesOut : (respondOk ws s).bytesOut = s.bytesOut := rfl
@[simp] theorem respondOk_rcLow : (respondOk ws s).rcLow = s.rcLow := rfl
@[simp] theorem respondOk_rcRange : (respondOk ws s).rcRange = s.rcRange := rfl
@[simp] theorem respondOk_rcDelayed : (respondOk ws s).rcDelayed = s.rcDelayed := rfl
@[simp] theorem respondOk_rcPending : (respondOk ws s).rcPending = s.rcPending := rfl
@[simp] theorem respondOk_ycPar : (respondOk ws s).ycPar = s.ycPar := rfl
@[simp] theorem respondOk_ycMax0 : (respondOk ws s).ycMax0 = s.ycMax0 := rfl
@[simp] theorem respondOk_ycMax1 : (respondOk ws s).ycMax1 = s.ycMax1 := rfl
@[simp] theorem respondOk_ycMax2 : (respondOk ws s).ycMax2 = s.ycMax2 := rfl
@[simp] theorem respondOk_tblCut : (respondOk ws s).tblCut = s.tblCut := rfl
@[simp] theorem respondOk_tblAlpha : (respondOk ws s).tblAlpha = s.tblAlpha := rfl
@[simp] theorem respondOk_ctx : (respondOk ws s).ctx = s.ctx := rfl
@[simp] theorem respondOk_tbl : (respondOk ws s).tbl = s.tbl := rfl
@[simp] theorem respondOk_hold : (respondOk ws s).hold = s.hold := rfl
@[simp] theorem respondOk_cmd : (respondOk ws s).cmd = s.cmd := rfl
@[simp] theorem respondOk_src : (respondOk ws s).src = s.src := rfl
@[simp] theorem respondOk_srcEof : (respondOk ws s).srcEof = s.srcEof := rfl
@[simp] theorem respondOk_snk : (respondOk ws s).snk = s.snk := rfl
@[simp] theorem respondOk_resp : (respondOk ws s).resp = s.resp ++ [.ok ws] := rfl

end

section
variable (w : Word) (c : Cause) (s : State)

@[simp] theorem takeFault_cfg : (takeFault w c s).cfg = s.cfg := rfl
@[simp] theorem takeFault_mode : (takeFault w c s).mode = s.mode := rfl
@[simp] theorem takeFault_faulted : (takeFault w c s).faulted = true := rfl
@[simp] theorem takeFault_attached : (takeFault w c s).attached = s.attached := rfl
@[simp] theorem takeFault_cause : (takeFault w c s).cause = if s.faulted then s.cause else c := rfl
@[simp] theorem takeFault_ctrl : (takeFault w c s).ctrl = s.ctrl := rfl
@[simp] theorem takeFault_faultInfo : (takeFault w c s).faultInfo = if s.faulted then s.faultInfo else w := rfl
@[simp] theorem takeFault_bytesIn : (takeFault w c s).bytesIn = s.bytesIn := rfl
@[simp] theorem takeFault_bytesOut : (takeFault w c s).bytesOut = s.bytesOut := rfl
@[simp] theorem takeFault_rcLow : (takeFault w c s).rcLow = s.rcLow := rfl
@[simp] theorem takeFault_rcRange : (takeFault w c s).rcRange = s.rcRange := rfl
@[simp] theorem takeFault_rcDelayed : (takeFault w c s).rcDelayed = s.rcDelayed := rfl
@[simp] theorem takeFault_rcPending : (takeFault w c s).rcPending = s.rcPending := rfl
@[simp] theorem takeFault_ycPar : (takeFault w c s).ycPar = s.ycPar := rfl
@[simp] theorem takeFault_ycMax0 : (takeFault w c s).ycMax0 = s.ycMax0 := rfl
@[simp] theorem takeFault_ycMax1 : (takeFault w c s).ycMax1 = s.ycMax1 := rfl
@[simp] theorem takeFault_ycMax2 : (takeFault w c s).ycMax2 = s.ycMax2 := rfl
@[simp] theorem takeFault_tblCut : (takeFault w c s).tblCut = s.tblCut := rfl
@[simp] theorem takeFault_tblAlpha : (takeFault w c s).tblAlpha = s.tblAlpha := rfl
@[simp] theorem takeFault_ctx : (takeFault w c s).ctx = s.ctx := rfl
@[simp] theorem takeFault_tbl : (takeFault w c s).tbl = s.tbl := rfl
@[simp] theorem takeFault_hold : (takeFault w c s).hold = s.hold := rfl
@[simp] theorem takeFault_cmd : (takeFault w c s).cmd = s.cmd := rfl
@[simp] theorem takeFault_src : (takeFault w c s).src = s.src := rfl
@[simp] theorem takeFault_srcEof : (takeFault w c s).srcEof = s.srcEof := rfl
@[simp] theorem takeFault_snk : (takeFault w c s).snk = s.snk := rfl
@[simp] theorem takeFault_resp : (takeFault w c s).resp = s.resp ++ [.fault c] := rfl

end

section
variable (rest : List Word) (s : State)

@[simp] theorem takeWords_cfg : (takeWords rest s).cfg = s.cfg := rfl
@[simp] theorem takeWords_mode : (takeWords rest s).mode = s.mode := rfl
@[simp] theorem takeWords_faulted : (takeWords rest s).faulted = s.faulted := rfl
@[simp] theorem takeWords_attached : (takeWords rest s).attached = s.attached := rfl
@[simp] theorem takeWords_cause : (takeWords rest s).cause = s.cause := rfl
@[simp] theorem takeWords_ctrl : (takeWords rest s).ctrl = s.ctrl := rfl
@[simp] theorem takeWords_faultInfo : (takeWords rest s).faultInfo = s.faultInfo := rfl
@[simp] theorem takeWords_bytesIn : (takeWords rest s).bytesIn = s.bytesIn := rfl
@[simp] theorem takeWords_bytesOut : (takeWords rest s).bytesOut = s.bytesOut := rfl
@[simp] theorem takeWords_rcLow : (takeWords rest s).rcLow = s.rcLow := rfl
@[simp] theorem takeWords_rcRange : (takeWords rest s).rcRange = s.rcRange := rfl
@[simp] theorem takeWords_rcDelayed : (takeWords rest s).rcDelayed = s.rcDelayed := rfl
@[simp] theorem takeWords_rcPending : (takeWords rest s).rcPending = s.rcPending := rfl
@[simp] theorem takeWords_ycPar : (takeWords rest s).ycPar = s.ycPar := rfl
@[simp] theorem takeWords_ycMax0 : (takeWords rest s).ycMax0 = s.ycMax0 := rfl
@[simp] theorem takeWords_ycMax1 : (takeWords rest s).ycMax1 = s.ycMax1 := rfl
@[simp] theorem takeWords_ycMax2 : (takeWords rest s).ycMax2 = s.ycMax2 := rfl
@[simp] theorem takeWords_tblCut : (takeWords rest s).tblCut = s.tblCut := rfl
@[simp] theorem takeWords_tblAlpha : (takeWords rest s).tblAlpha = s.tblAlpha := rfl
@[simp] theorem takeWords_ctx : (takeWords rest s).ctx = s.ctx := rfl
@[simp] theorem takeWords_tbl : (takeWords rest s).tbl = s.tbl := rfl
@[simp] theorem takeWords_hold : (takeWords rest s).hold = s.hold := rfl
@[simp] theorem takeWords_cmd : (takeWords rest s).cmd = rest := rfl
@[simp] theorem takeWords_src : (takeWords rest s).src = s.src := rfl
@[simp] theorem takeWords_srcEof : (takeWords rest s).srcEof = s.srcEof := rfl
@[simp] theorem takeWords_snk : (takeWords rest s).snk = s.snk := rfl
@[simp] theorem takeWords_resp : (takeWords rest s).resp = s.resp := rfl

end

section
variable (bs : List Byte) (s : State)

@[simp] theorem writeBytes_cfg : (writeBytes bs s).cfg = s.cfg := rfl
@[simp] theorem writeBytes_mode : (writeBytes bs s).mode = s.mode := rfl
@[simp] theorem writeBytes_faulted : (writeBytes bs s).faulted = s.faulted := rfl
@[simp] theorem writeBytes_attached : (writeBytes bs s).attached = s.attached := rfl
@[simp] theorem writeBytes_cause : (writeBytes bs s).cause = s.cause := rfl
@[simp] theorem writeBytes_ctrl : (writeBytes bs s).ctrl = s.ctrl := rfl
@[simp] theorem writeBytes_faultInfo : (writeBytes bs s).faultInfo = s.faultInfo := rfl
@[simp] theorem writeBytes_bytesIn : (writeBytes bs s).bytesIn = s.bytesIn := rfl
@[simp] theorem writeBytes_bytesOut : (writeBytes bs s).bytesOut = s.bytesOut + BitVec.ofNat 32 bs.length := rfl
@[simp] theorem writeBytes_rcLow : (writeBytes bs s).rcLow = s.rcLow := rfl
@[simp] theorem writeBytes_rcRange : (writeBytes bs s).rcRange = s.rcRange := rfl
@[simp] theorem writeBytes_rcDelayed : (writeBytes bs s).rcDelayed = s.rcDelayed := rfl
@[simp] theorem writeBytes_rcPending : (writeBytes bs s).rcPending = s.rcPending := rfl
@[simp] theorem writeBytes_ycPar : (writeBytes bs s).ycPar = s.ycPar := rfl
@[simp] theorem writeBytes_ycMax0 : (writeBytes bs s).ycMax0 = s.ycMax0 := rfl
@[simp] theorem writeBytes_ycMax1 : (writeBytes bs s).ycMax1 = s.ycMax1 := rfl
@[simp] theorem writeBytes_ycMax2 : (writeBytes bs s).ycMax2 = s.ycMax2 := rfl
@[simp] theorem writeBytes_tblCut : (writeBytes bs s).tblCut = s.tblCut := rfl
@[simp] theorem writeBytes_tblAlpha : (writeBytes bs s).tblAlpha = s.tblAlpha := rfl
@[simp] theorem writeBytes_ctx : (writeBytes bs s).ctx = s.ctx := rfl
@[simp] theorem writeBytes_tbl : (writeBytes bs s).tbl = s.tbl := rfl
@[simp] theorem writeBytes_hold : (writeBytes bs s).hold = s.hold := rfl
@[simp] theorem writeBytes_cmd : (writeBytes bs s).cmd = s.cmd := rfl
@[simp] theorem writeBytes_src : (writeBytes bs s).src = s.src := rfl
@[simp] theorem writeBytes_srcEof : (writeBytes bs s).srcEof = s.srcEof := rfl
@[simp] theorem writeBytes_snk : (writeBytes bs s).snk = s.snk ++ bs := rfl
@[simp] theorem writeBytes_resp : (writeBytes bs s).resp = s.resp := rfl

end

section
variable (rest : List Byte) (s : State)

@[simp] theorem takeByte_cfg : (takeByte rest s).cfg = s.cfg := rfl
@[simp] theorem takeByte_mode : (takeByte rest s).mode = s.mode := rfl
@[simp] theorem takeByte_faulted : (takeByte rest s).faulted = s.faulted := rfl
@[simp] theorem takeByte_attached : (takeByte rest s).attached = s.attached := rfl
@[simp] theorem takeByte_cause : (takeByte rest s).cause = s.cause := rfl
@[simp] theorem takeByte_ctrl : (takeByte rest s).ctrl = s.ctrl := rfl
@[simp] theorem takeByte_faultInfo : (takeByte rest s).faultInfo = s.faultInfo := rfl
@[simp] theorem takeByte_bytesIn : (takeByte rest s).bytesIn = s.bytesIn + 1 := rfl
@[simp] theorem takeByte_bytesOut : (takeByte rest s).bytesOut = s.bytesOut := rfl
@[simp] theorem takeByte_rcLow : (takeByte rest s).rcLow = s.rcLow := rfl
@[simp] theorem takeByte_rcRange : (takeByte rest s).rcRange = s.rcRange := rfl
@[simp] theorem takeByte_rcDelayed : (takeByte rest s).rcDelayed = s.rcDelayed := rfl
@[simp] theorem takeByte_rcPending : (takeByte rest s).rcPending = s.rcPending := rfl
@[simp] theorem takeByte_ycPar : (takeByte rest s).ycPar = s.ycPar := rfl
@[simp] theorem takeByte_ycMax0 : (takeByte rest s).ycMax0 = s.ycMax0 := rfl
@[simp] theorem takeByte_ycMax1 : (takeByte rest s).ycMax1 = s.ycMax1 := rfl
@[simp] theorem takeByte_ycMax2 : (takeByte rest s).ycMax2 = s.ycMax2 := rfl
@[simp] theorem takeByte_tblCut : (takeByte rest s).tblCut = s.tblCut := rfl
@[simp] theorem takeByte_tblAlpha : (takeByte rest s).tblAlpha = s.tblAlpha := rfl
@[simp] theorem takeByte_ctx : (takeByte rest s).ctx = s.ctx := rfl
@[simp] theorem takeByte_tbl : (takeByte rest s).tbl = s.tbl := rfl
@[simp] theorem takeByte_hold : (takeByte rest s).hold = s.hold := rfl
@[simp] theorem takeByte_cmd : (takeByte rest s).cmd = s.cmd := rfl
@[simp] theorem takeByte_src : (takeByte rest s).src = rest := rfl
@[simp] theorem takeByte_srcEof : (takeByte rest s).srcEof = s.srcEof := rfl
@[simp] theorem takeByte_snk : (takeByte rest s).snk = s.snk := rfl
@[simp] theorem takeByte_resp : (takeByte rest s).resp = s.resp := rfl

end

section
variable (h : Option Hold) (s : State)

@[simp] theorem setHold_cfg : (setHold h s).cfg = s.cfg := rfl
@[simp] theorem setHold_mode : (setHold h s).mode = s.mode := rfl
@[simp] theorem setHold_faulted : (setHold h s).faulted = s.faulted := rfl
@[simp] theorem setHold_attached : (setHold h s).attached = s.attached := rfl
@[simp] theorem setHold_cause : (setHold h s).cause = s.cause := rfl
@[simp] theorem setHold_ctrl : (setHold h s).ctrl = s.ctrl := rfl
@[simp] theorem setHold_faultInfo : (setHold h s).faultInfo = s.faultInfo := rfl
@[simp] theorem setHold_bytesIn : (setHold h s).bytesIn = s.bytesIn := rfl
@[simp] theorem setHold_bytesOut : (setHold h s).bytesOut = s.bytesOut := rfl
@[simp] theorem setHold_rcLow : (setHold h s).rcLow = s.rcLow := rfl
@[simp] theorem setHold_rcRange : (setHold h s).rcRange = s.rcRange := rfl
@[simp] theorem setHold_rcDelayed : (setHold h s).rcDelayed = s.rcDelayed := rfl
@[simp] theorem setHold_rcPending : (setHold h s).rcPending = s.rcPending := rfl
@[simp] theorem setHold_ycPar : (setHold h s).ycPar = s.ycPar := rfl
@[simp] theorem setHold_ycMax0 : (setHold h s).ycMax0 = s.ycMax0 := rfl
@[simp] theorem setHold_ycMax1 : (setHold h s).ycMax1 = s.ycMax1 := rfl
@[simp] theorem setHold_ycMax2 : (setHold h s).ycMax2 = s.ycMax2 := rfl
@[simp] theorem setHold_tblCut : (setHold h s).tblCut = s.tblCut := rfl
@[simp] theorem setHold_tblAlpha : (setHold h s).tblAlpha = s.tblAlpha := rfl
@[simp] theorem setHold_ctx : (setHold h s).ctx = s.ctx := rfl
@[simp] theorem setHold_tbl : (setHold h s).tbl = s.tbl := rfl
@[simp] theorem setHold_hold : (setHold h s).hold = h := rfl
@[simp] theorem setHold_cmd : (setHold h s).cmd = s.cmd := rfl
@[simp] theorem setHold_src : (setHold h s).src = s.src := rfl
@[simp] theorem setHold_srcEof : (setHold h s).srcEof = s.srcEof := rfl
@[simp] theorem setHold_snk : (setHold h s).snk = s.snk := rfl
@[simp] theorem setHold_resp : (setHold h s).resp = s.resp := rfl

end

section
variable (m : Mode) (s : State)

@[simp] theorem setMode_cfg : (setMode m s).cfg = s.cfg := rfl
@[simp] theorem setMode_mode : (setMode m s).mode = m := rfl
@[simp] theorem setMode_faulted : (setMode m s).faulted = s.faulted := rfl
@[simp] theorem setMode_attached : (setMode m s).attached = s.attached := rfl
@[simp] theorem setMode_cause : (setMode m s).cause = s.cause := rfl
@[simp] theorem setMode_ctrl : (setMode m s).ctrl = s.ctrl := rfl
@[simp] theorem setMode_faultInfo : (setMode m s).faultInfo = s.faultInfo := rfl
@[simp] theorem setMode_bytesIn : (setMode m s).bytesIn = s.bytesIn := rfl
@[simp] theorem setMode_bytesOut : (setMode m s).bytesOut = s.bytesOut := rfl
@[simp] theorem setMode_rcLow : (setMode m s).rcLow = s.rcLow := rfl
@[simp] theorem setMode_rcRange : (setMode m s).rcRange = s.rcRange := rfl
@[simp] theorem setMode_rcDelayed : (setMode m s).rcDelayed = s.rcDelayed := rfl
@[simp] theorem setMode_rcPending : (setMode m s).rcPending = s.rcPending := rfl
@[simp] theorem setMode_ycPar : (setMode m s).ycPar = s.ycPar := rfl
@[simp] theorem setMode_ycMax0 : (setMode m s).ycMax0 = s.ycMax0 := rfl
@[simp] theorem setMode_ycMax1 : (setMode m s).ycMax1 = s.ycMax1 := rfl
@[simp] theorem setMode_ycMax2 : (setMode m s).ycMax2 = s.ycMax2 := rfl
@[simp] theorem setMode_tblCut : (setMode m s).tblCut = s.tblCut := rfl
@[simp] theorem setMode_tblAlpha : (setMode m s).tblAlpha = s.tblAlpha := rfl
@[simp] theorem setMode_ctx : (setMode m s).ctx = s.ctx := rfl
@[simp] theorem setMode_tbl : (setMode m s).tbl = s.tbl := rfl
@[simp] theorem setMode_hold : (setMode m s).hold = s.hold := rfl
@[simp] theorem setMode_cmd : (setMode m s).cmd = s.cmd := rfl
@[simp] theorem setMode_src : (setMode m s).src = s.src := rfl
@[simp] theorem setMode_srcEof : (setMode m s).srcEof = s.srcEof := rfl
@[simp] theorem setMode_snk : (setMode m s).snk = s.snk := rfl
@[simp] theorem setMode_resp : (setMode m s).resp = s.resp := rfl

end

section
variable (low range : Nat) (s : State)

@[simp] theorem setInterval_cfg : (setInterval low range s).cfg = s.cfg := rfl
@[simp] theorem setInterval_mode : (setInterval low range s).mode = s.mode := rfl
@[simp] theorem setInterval_faulted : (setInterval low range s).faulted = s.faulted := rfl
@[simp] theorem setInterval_attached : (setInterval low range s).attached = s.attached := rfl
@[simp] theorem setInterval_cause : (setInterval low range s).cause = s.cause := rfl
@[simp] theorem setInterval_ctrl : (setInterval low range s).ctrl = s.ctrl := rfl
@[simp] theorem setInterval_faultInfo : (setInterval low range s).faultInfo = s.faultInfo := rfl
@[simp] theorem setInterval_bytesIn : (setInterval low range s).bytesIn = s.bytesIn := rfl
@[simp] theorem setInterval_bytesOut : (setInterval low range s).bytesOut = s.bytesOut := rfl
@[simp] theorem setInterval_rcLow : (setInterval low range s).rcLow = BitVec.ofNat 32 low := rfl
@[simp] theorem setInterval_rcRange : (setInterval low range s).rcRange = BitVec.ofNat 32 range := rfl
@[simp] theorem setInterval_rcDelayed : (setInterval low range s).rcDelayed = s.rcDelayed := rfl
@[simp] theorem setInterval_rcPending : (setInterval low range s).rcPending = s.rcPending := rfl
@[simp] theorem setInterval_ycPar : (setInterval low range s).ycPar = s.ycPar := rfl
@[simp] theorem setInterval_ycMax0 : (setInterval low range s).ycMax0 = s.ycMax0 := rfl
@[simp] theorem setInterval_ycMax1 : (setInterval low range s).ycMax1 = s.ycMax1 := rfl
@[simp] theorem setInterval_ycMax2 : (setInterval low range s).ycMax2 = s.ycMax2 := rfl
@[simp] theorem setInterval_tblCut : (setInterval low range s).tblCut = s.tblCut := rfl
@[simp] theorem setInterval_tblAlpha : (setInterval low range s).tblAlpha = s.tblAlpha := rfl
@[simp] theorem setInterval_ctx : (setInterval low range s).ctx = s.ctx := rfl
@[simp] theorem setInterval_tbl : (setInterval low range s).tbl = s.tbl := rfl
@[simp] theorem setInterval_hold : (setInterval low range s).hold = s.hold := rfl
@[simp] theorem setInterval_cmd : (setInterval low range s).cmd = s.cmd := rfl
@[simp] theorem setInterval_src : (setInterval low range s).src = s.src := rfl
@[simp] theorem setInterval_srcEof : (setInterval low range s).srcEof = s.srcEof := rfl
@[simp] theorem setInterval_snk : (setInterval low range s).snk = s.snk := rfl
@[simp] theorem setInterval_resp : (setInterval low range s).resp = s.resp := rfl

end

section
variable (d : Option Byte) (n : Word) (s : State)

@[simp] theorem setCarry_cfg : (setCarry d n s).cfg = s.cfg := rfl
@[simp] theorem setCarry_mode : (setCarry d n s).mode = s.mode := rfl
@[simp] theorem setCarry_faulted : (setCarry d n s).faulted = s.faulted := rfl
@[simp] theorem setCarry_attached : (setCarry d n s).attached = s.attached := rfl
@[simp] theorem setCarry_cause : (setCarry d n s).cause = s.cause := rfl
@[simp] theorem setCarry_ctrl : (setCarry d n s).ctrl = s.ctrl := rfl
@[simp] theorem setCarry_faultInfo : (setCarry d n s).faultInfo = s.faultInfo := rfl
@[simp] theorem setCarry_bytesIn : (setCarry d n s).bytesIn = s.bytesIn := rfl
@[simp] theorem setCarry_bytesOut : (setCarry d n s).bytesOut = s.bytesOut := rfl
@[simp] theorem setCarry_rcLow : (setCarry d n s).rcLow = s.rcLow := rfl
@[simp] theorem setCarry_rcRange : (setCarry d n s).rcRange = s.rcRange := rfl
@[simp] theorem setCarry_rcDelayed : (setCarry d n s).rcDelayed = d := rfl
@[simp] theorem setCarry_rcPending : (setCarry d n s).rcPending = n := rfl
@[simp] theorem setCarry_ycPar : (setCarry d n s).ycPar = s.ycPar := rfl
@[simp] theorem setCarry_ycMax0 : (setCarry d n s).ycMax0 = s.ycMax0 := rfl
@[simp] theorem setCarry_ycMax1 : (setCarry d n s).ycMax1 = s.ycMax1 := rfl
@[simp] theorem setCarry_ycMax2 : (setCarry d n s).ycMax2 = s.ycMax2 := rfl
@[simp] theorem setCarry_tblCut : (setCarry d n s).tblCut = s.tblCut := rfl
@[simp] theorem setCarry_tblAlpha : (setCarry d n s).tblAlpha = s.tblAlpha := rfl
@[simp] theorem setCarry_ctx : (setCarry d n s).ctx = s.ctx := rfl
@[simp] theorem setCarry_tbl : (setCarry d n s).tbl = s.tbl := rfl
@[simp] theorem setCarry_hold : (setCarry d n s).hold = s.hold := rfl
@[simp] theorem setCarry_cmd : (setCarry d n s).cmd = s.cmd := rfl
@[simp] theorem setCarry_src : (setCarry d n s).src = s.src := rfl
@[simp] theorem setCarry_srcEof : (setCarry d n s).srcEof = s.srcEof := rfl
@[simp] theorem setCarry_snk : (setCarry d n s).snk = s.snk := rfl
@[simp] theorem setCarry_resp : (setCarry d n s).resp = s.resp := rfl

end

section
variable (w : Word) (s : State)

@[simp] theorem setCtrl_cfg : (setCtrl w s).cfg = s.cfg := rfl
@[simp] theorem setCtrl_mode : (setCtrl w s).mode = s.mode := rfl
@[simp] theorem setCtrl_faulted : (setCtrl w s).faulted = s.faulted := rfl
@[simp] theorem setCtrl_attached : (setCtrl w s).attached = s.attached := rfl
@[simp] theorem setCtrl_cause : (setCtrl w s).cause = s.cause := rfl
@[simp] theorem setCtrl_ctrl : (setCtrl w s).ctrl = w := rfl
@[simp] theorem setCtrl_faultInfo : (setCtrl w s).faultInfo = s.faultInfo := rfl
@[simp] theorem setCtrl_bytesIn : (setCtrl w s).bytesIn = s.bytesIn := rfl
@[simp] theorem setCtrl_bytesOut : (setCtrl w s).bytesOut = s.bytesOut := rfl
@[simp] theorem setCtrl_rcLow : (setCtrl w s).rcLow = s.rcLow := rfl
@[simp] theorem setCtrl_rcRange : (setCtrl w s).rcRange = s.rcRange := rfl
@[simp] theorem setCtrl_rcDelayed : (setCtrl w s).rcDelayed = s.rcDelayed := rfl
@[simp] theorem setCtrl_rcPending : (setCtrl w s).rcPending = s.rcPending := rfl
@[simp] theorem setCtrl_ycPar : (setCtrl w s).ycPar = s.ycPar := rfl
@[simp] theorem setCtrl_ycMax0 : (setCtrl w s).ycMax0 = s.ycMax0 := rfl
@[simp] theorem setCtrl_ycMax1 : (setCtrl w s).ycMax1 = s.ycMax1 := rfl
@[simp] theorem setCtrl_ycMax2 : (setCtrl w s).ycMax2 = s.ycMax2 := rfl
@[simp] theorem setCtrl_tblCut : (setCtrl w s).tblCut = s.tblCut := rfl
@[simp] theorem setCtrl_tblAlpha : (setCtrl w s).tblAlpha = s.tblAlpha := rfl
@[simp] theorem setCtrl_ctx : (setCtrl w s).ctx = s.ctx := rfl
@[simp] theorem setCtrl_tbl : (setCtrl w s).tbl = s.tbl := rfl
@[simp] theorem setCtrl_hold : (setCtrl w s).hold = s.hold := rfl
@[simp] theorem setCtrl_cmd : (setCtrl w s).cmd = s.cmd := rfl
@[simp] theorem setCtrl_src : (setCtrl w s).src = s.src := rfl
@[simp] theorem setCtrl_srcEof : (setCtrl w s).srcEof = s.srcEof := rfl
@[simp] theorem setCtrl_snk : (setCtrl w s).snk = s.snk := rfl
@[simp] theorem setCtrl_resp : (setCtrl w s).resp = s.resp := rfl

end

section
variable (a : Bool) (par m0 m1 m2 : Word) (s : State)

@[simp] theorem setColour_cfg : (setColour a par m0 m1 m2 s).cfg = s.cfg := rfl
@[simp] theorem setColour_mode : (setColour a par m0 m1 m2 s).mode = s.mode := rfl
@[simp] theorem setColour_faulted : (setColour a par m0 m1 m2 s).faulted = s.faulted := rfl
@[simp] theorem setColour_attached : (setColour a par m0 m1 m2 s).attached = a := rfl
@[simp] theorem setColour_cause : (setColour a par m0 m1 m2 s).cause = s.cause := rfl
@[simp] theorem setColour_ctrl : (setColour a par m0 m1 m2 s).ctrl = s.ctrl := rfl
@[simp] theorem setColour_faultInfo : (setColour a par m0 m1 m2 s).faultInfo = s.faultInfo := rfl
@[simp] theorem setColour_bytesIn : (setColour a par m0 m1 m2 s).bytesIn = s.bytesIn := rfl
@[simp] theorem setColour_bytesOut : (setColour a par m0 m1 m2 s).bytesOut = s.bytesOut := rfl
@[simp] theorem setColour_rcLow : (setColour a par m0 m1 m2 s).rcLow = s.rcLow := rfl
@[simp] theorem setColour_rcRange : (setColour a par m0 m1 m2 s).rcRange = s.rcRange := rfl
@[simp] theorem setColour_rcDelayed : (setColour a par m0 m1 m2 s).rcDelayed = s.rcDelayed := rfl
@[simp] theorem setColour_rcPending : (setColour a par m0 m1 m2 s).rcPending = s.rcPending := rfl
@[simp] theorem setColour_ycPar : (setColour a par m0 m1 m2 s).ycPar = par := rfl
@[simp] theorem setColour_ycMax0 : (setColour a par m0 m1 m2 s).ycMax0 = m0 := rfl
@[simp] theorem setColour_ycMax1 : (setColour a par m0 m1 m2 s).ycMax1 = m1 := rfl
@[simp] theorem setColour_ycMax2 : (setColour a par m0 m1 m2 s).ycMax2 = m2 := rfl
@[simp] theorem setColour_tblCut : (setColour a par m0 m1 m2 s).tblCut = s.tblCut := rfl
@[simp] theorem setColour_tblAlpha : (setColour a par m0 m1 m2 s).tblAlpha = s.tblAlpha := rfl
@[simp] theorem setColour_ctx : (setColour a par m0 m1 m2 s).ctx = s.ctx := rfl
@[simp] theorem setColour_tbl : (setColour a par m0 m1 m2 s).tbl = s.tbl := rfl
@[simp] theorem setColour_hold : (setColour a par m0 m1 m2 s).hold = s.hold := rfl
@[simp] theorem setColour_cmd : (setColour a par m0 m1 m2 s).cmd = s.cmd := rfl
@[simp] theorem setColour_src : (setColour a par m0 m1 m2 s).src = s.src := rfl
@[simp] theorem setColour_srcEof : (setColour a par m0 m1 m2 s).srcEof = s.srcEof := rfl
@[simp] theorem setColour_snk : (setColour a par m0 m1 m2 s).snk = s.snk := rfl
@[simp] theorem setColour_resp : (setColour a par m0 m1 m2 s).resp = s.resp := rfl

end

section
variable (i : Nat) (v : BitVec 12) (s : State)

@[simp] theorem ctxWrite_cfg : (ctxWrite i v s).cfg = s.cfg := rfl
@[simp] theorem ctxWrite_mode : (ctxWrite i v s).mode = s.mode := rfl
@[simp] theorem ctxWrite_faulted : (ctxWrite i v s).faulted = s.faulted := rfl
@[simp] theorem ctxWrite_attached : (ctxWrite i v s).attached = s.attached := rfl
@[simp] theorem ctxWrite_cause : (ctxWrite i v s).cause = s.cause := rfl
@[simp] theorem ctxWrite_ctrl : (ctxWrite i v s).ctrl = s.ctrl := rfl
@[simp] theorem ctxWrite_faultInfo : (ctxWrite i v s).faultInfo = s.faultInfo := rfl
@[simp] theorem ctxWrite_bytesIn : (ctxWrite i v s).bytesIn = s.bytesIn := rfl
@[simp] theorem ctxWrite_bytesOut : (ctxWrite i v s).bytesOut = s.bytesOut := rfl
@[simp] theorem ctxWrite_rcLow : (ctxWrite i v s).rcLow = s.rcLow := rfl
@[simp] theorem ctxWrite_rcRange : (ctxWrite i v s).rcRange = s.rcRange := rfl
@[simp] theorem ctxWrite_rcDelayed : (ctxWrite i v s).rcDelayed = s.rcDelayed := rfl
@[simp] theorem ctxWrite_rcPending : (ctxWrite i v s).rcPending = s.rcPending := rfl
@[simp] theorem ctxWrite_ycPar : (ctxWrite i v s).ycPar = s.ycPar := rfl
@[simp] theorem ctxWrite_ycMax0 : (ctxWrite i v s).ycMax0 = s.ycMax0 := rfl
@[simp] theorem ctxWrite_ycMax1 : (ctxWrite i v s).ycMax1 = s.ycMax1 := rfl
@[simp] theorem ctxWrite_ycMax2 : (ctxWrite i v s).ycMax2 = s.ycMax2 := rfl
@[simp] theorem ctxWrite_tblCut : (ctxWrite i v s).tblCut = s.tblCut := rfl
@[simp] theorem ctxWrite_tblAlpha : (ctxWrite i v s).tblAlpha = s.tblAlpha := rfl
@[simp] theorem ctxWrite_ctx : (ctxWrite i v s).ctx = cellSet 0x800 s.ctx i v := rfl
@[simp] theorem ctxWrite_tbl : (ctxWrite i v s).tbl = s.tbl := rfl
@[simp] theorem ctxWrite_hold : (ctxWrite i v s).hold = s.hold := rfl
@[simp] theorem ctxWrite_cmd : (ctxWrite i v s).cmd = s.cmd := rfl
@[simp] theorem ctxWrite_src : (ctxWrite i v s).src = s.src := rfl
@[simp] theorem ctxWrite_srcEof : (ctxWrite i v s).srcEof = s.srcEof := rfl
@[simp] theorem ctxWrite_snk : (ctxWrite i v s).snk = s.snk := rfl
@[simp] theorem ctxWrite_resp : (ctxWrite i v s).resp = s.resp := rfl

end

section
variable (s : State)

@[simp] theorem ctxClear_cfg : (ctxClear s).cfg = s.cfg := rfl
@[simp] theorem ctxClear_mode : (ctxClear s).mode = s.mode := rfl
@[simp] theorem ctxClear_faulted : (ctxClear s).faulted = s.faulted := rfl
@[simp] theorem ctxClear_attached : (ctxClear s).attached = s.attached := rfl
@[simp] theorem ctxClear_cause : (ctxClear s).cause = s.cause := rfl
@[simp] theorem ctxClear_ctrl : (ctxClear s).ctrl = s.ctrl := rfl
@[simp] theorem ctxClear_faultInfo : (ctxClear s).faultInfo = s.faultInfo := rfl
@[simp] theorem ctxClear_bytesIn : (ctxClear s).bytesIn = s.bytesIn := rfl
@[simp] theorem ctxClear_bytesOut : (ctxClear s).bytesOut = s.bytesOut := rfl
@[simp] theorem ctxClear_rcLow : (ctxClear s).rcLow = s.rcLow := rfl
@[simp] theorem ctxClear_rcRange : (ctxClear s).rcRange = s.rcRange := rfl
@[simp] theorem ctxClear_rcDelayed : (ctxClear s).rcDelayed = s.rcDelayed := rfl
@[simp] theorem ctxClear_rcPending : (ctxClear s).rcPending = s.rcPending := rfl
@[simp] theorem ctxClear_ycPar : (ctxClear s).ycPar = s.ycPar := rfl
@[simp] theorem ctxClear_ycMax0 : (ctxClear s).ycMax0 = s.ycMax0 := rfl
@[simp] theorem ctxClear_ycMax1 : (ctxClear s).ycMax1 = s.ycMax1 := rfl
@[simp] theorem ctxClear_ycMax2 : (ctxClear s).ycMax2 = s.ycMax2 := rfl
@[simp] theorem ctxClear_tblCut : (ctxClear s).tblCut = s.tblCut := rfl
@[simp] theorem ctxClear_tblAlpha : (ctxClear s).tblAlpha = s.tblAlpha := rfl
@[simp] theorem ctxClear_ctx : (ctxClear s).ctx = [] := rfl
@[simp] theorem ctxClear_tbl : (ctxClear s).tbl = s.tbl := rfl
@[simp] theorem ctxClear_hold : (ctxClear s).hold = s.hold := rfl
@[simp] theorem ctxClear_cmd : (ctxClear s).cmd = s.cmd := rfl
@[simp] theorem ctxClear_src : (ctxClear s).src = s.src := rfl
@[simp] theorem ctxClear_srcEof : (ctxClear s).srcEof = s.srcEof := rfl
@[simp] theorem ctxClear_snk : (ctxClear s).snk = s.snk := rfl
@[simp] theorem ctxClear_resp : (ctxClear s).resp = s.resp := rfl

end

section
variable (t : Nat) (b : Bool) (st : Nat) (v : BitVec 16) (s : State)

@[simp] theorem tblPut_cfg : (tblPut t b st v s).cfg = s.cfg := rfl
@[simp] theorem tblPut_mode : (tblPut t b st v s).mode = s.mode := rfl
@[simp] theorem tblPut_faulted : (tblPut t b st v s).faulted = s.faulted := rfl
@[simp] theorem tblPut_attached : (tblPut t b st v s).attached = s.attached := rfl
@[simp] theorem tblPut_cause : (tblPut t b st v s).cause = s.cause := rfl
@[simp] theorem tblPut_ctrl : (tblPut t b st v s).ctrl = s.ctrl := rfl
@[simp] theorem tblPut_faultInfo : (tblPut t b st v s).faultInfo = s.faultInfo := rfl
@[simp] theorem tblPut_bytesIn : (tblPut t b st v s).bytesIn = s.bytesIn := rfl
@[simp] theorem tblPut_bytesOut : (tblPut t b st v s).bytesOut = s.bytesOut := rfl
@[simp] theorem tblPut_rcLow : (tblPut t b st v s).rcLow = s.rcLow := rfl
@[simp] theorem tblPut_rcRange : (tblPut t b st v s).rcRange = s.rcRange := rfl
@[simp] theorem tblPut_rcDelayed : (tblPut t b st v s).rcDelayed = s.rcDelayed := rfl
@[simp] theorem tblPut_rcPending : (tblPut t b st v s).rcPending = s.rcPending := rfl
@[simp] theorem tblPut_ycPar : (tblPut t b st v s).ycPar = s.ycPar := rfl
@[simp] theorem tblPut_ycMax0 : (tblPut t b st v s).ycMax0 = s.ycMax0 := rfl
@[simp] theorem tblPut_ycMax1 : (tblPut t b st v s).ycMax1 = s.ycMax1 := rfl
@[simp] theorem tblPut_ycMax2 : (tblPut t b st v s).ycMax2 = s.ycMax2 := rfl
@[simp] theorem tblPut_tblCut : (tblPut t b st v s).tblCut = s.tblCut := rfl
@[simp] theorem tblPut_tblAlpha : (tblPut t b st v s).tblAlpha = s.tblAlpha := rfl
@[simp] theorem tblPut_ctx : (tblPut t b st v s).ctx = s.ctx := rfl
@[simp] theorem tblPut_tbl : (tblPut t b st v s).tbl = cellPut s.tbl (tblKey t b st) v := rfl
@[simp] theorem tblPut_hold : (tblPut t b st v s).hold = s.hold := rfl
@[simp] theorem tblPut_cmd : (tblPut t b st v s).cmd = s.cmd := rfl
@[simp] theorem tblPut_src : (tblPut t b st v s).src = s.src := rfl
@[simp] theorem tblPut_srcEof : (tblPut t b st v s).srcEof = s.srcEof := rfl
@[simp] theorem tblPut_snk : (tblPut t b st v s).snk = s.snk := rfl
@[simp] theorem tblPut_resp : (tblPut t b st v s).resp = s.resp := rfl

end

section
variable (t : Nat) (r0 r1 : List (BitVec 16)) (s : State)

@[simp] theorem tblLoad_cfg : (tblLoad t r0 r1 s).cfg = s.cfg := rfl
@[simp] theorem tblLoad_mode : (tblLoad t r0 r1 s).mode = s.mode := rfl
@[simp] theorem tblLoad_faulted : (tblLoad t r0 r1 s).faulted = s.faulted := rfl
@[simp] theorem tblLoad_attached : (tblLoad t r0 r1 s).attached = s.attached := rfl
@[simp] theorem tblLoad_cause : (tblLoad t r0 r1 s).cause = s.cause := rfl
@[simp] theorem tblLoad_ctrl : (tblLoad t r0 r1 s).ctrl = s.ctrl := rfl
@[simp] theorem tblLoad_faultInfo : (tblLoad t r0 r1 s).faultInfo = s.faultInfo := rfl
@[simp] theorem tblLoad_bytesIn : (tblLoad t r0 r1 s).bytesIn = s.bytesIn := rfl
@[simp] theorem tblLoad_bytesOut : (tblLoad t r0 r1 s).bytesOut = s.bytesOut := rfl
@[simp] theorem tblLoad_rcLow : (tblLoad t r0 r1 s).rcLow = s.rcLow := rfl
@[simp] theorem tblLoad_rcRange : (tblLoad t r0 r1 s).rcRange = s.rcRange := rfl
@[simp] theorem tblLoad_rcDelayed : (tblLoad t r0 r1 s).rcDelayed = s.rcDelayed := rfl
@[simp] theorem tblLoad_rcPending : (tblLoad t r0 r1 s).rcPending = s.rcPending := rfl
@[simp] theorem tblLoad_ycPar : (tblLoad t r0 r1 s).ycPar = s.ycPar := rfl
@[simp] theorem tblLoad_ycMax0 : (tblLoad t r0 r1 s).ycMax0 = s.ycMax0 := rfl
@[simp] theorem tblLoad_ycMax1 : (tblLoad t r0 r1 s).ycMax1 = s.ycMax1 := rfl
@[simp] theorem tblLoad_ycMax2 : (tblLoad t r0 r1 s).ycMax2 = s.ycMax2 := rfl
@[simp] theorem tblLoad_tblCut : (tblLoad t r0 r1 s).tblCut = s.tblCut := rfl
@[simp] theorem tblLoad_tblAlpha : (tblLoad t r0 r1 s).tblAlpha = s.tblAlpha := rfl
@[simp] theorem tblLoad_ctx : (tblLoad t r0 r1 s).ctx = s.ctx := rfl
@[simp] theorem tblLoad_tbl : (tblLoad t r0 r1 s).tbl = cellBlock s.tbl (tblKey t false 0) (tblKey (t + 1) false 0)
        (cellRow (tblKey t false 0) r0 ++ cellRow (tblKey t true 0) r1) := rfl
@[simp] theorem tblLoad_hold : (tblLoad t r0 r1 s).hold = s.hold := rfl
@[simp] theorem tblLoad_cmd : (tblLoad t r0 r1 s).cmd = s.cmd := rfl
@[simp] theorem tblLoad_src : (tblLoad t r0 r1 s).src = s.src := rfl
@[simp] theorem tblLoad_srcEof : (tblLoad t r0 r1 s).srcEof = s.srcEof := rfl
@[simp] theorem tblLoad_snk : (tblLoad t r0 r1 s).snk = s.snk := rfl
@[simp] theorem tblLoad_resp : (tblLoad t r0 r1 s).resp = s.resp := rfl

end

section
variable (t : Nat) (cut alpha : Word) (s : State)

@[simp] theorem setTblParams_cfg : (setTblParams t cut alpha s).cfg = s.cfg := rfl
@[simp] theorem setTblParams_mode : (setTblParams t cut alpha s).mode = s.mode := rfl
@[simp] theorem setTblParams_faulted : (setTblParams t cut alpha s).faulted = s.faulted := rfl
@[simp] theorem setTblParams_attached : (setTblParams t cut alpha s).attached = s.attached := rfl
@[simp] theorem setTblParams_cause : (setTblParams t cut alpha s).cause = s.cause := rfl
@[simp] theorem setTblParams_ctrl : (setTblParams t cut alpha s).ctrl = s.ctrl := rfl
@[simp] theorem setTblParams_faultInfo : (setTblParams t cut alpha s).faultInfo = s.faultInfo := rfl
@[simp] theorem setTblParams_bytesIn : (setTblParams t cut alpha s).bytesIn = s.bytesIn := rfl
@[simp] theorem setTblParams_bytesOut : (setTblParams t cut alpha s).bytesOut = s.bytesOut := rfl
@[simp] theorem setTblParams_rcLow : (setTblParams t cut alpha s).rcLow = s.rcLow := rfl
@[simp] theorem setTblParams_rcRange : (setTblParams t cut alpha s).rcRange = s.rcRange := rfl
@[simp] theorem setTblParams_rcDelayed : (setTblParams t cut alpha s).rcDelayed = s.rcDelayed := rfl
@[simp] theorem setTblParams_rcPending : (setTblParams t cut alpha s).rcPending = s.rcPending := rfl
@[simp] theorem setTblParams_ycPar : (setTblParams t cut alpha s).ycPar = s.ycPar := rfl
@[simp] theorem setTblParams_ycMax0 : (setTblParams t cut alpha s).ycMax0 = s.ycMax0 := rfl
@[simp] theorem setTblParams_ycMax1 : (setTblParams t cut alpha s).ycMax1 = s.ycMax1 := rfl
@[simp] theorem setTblParams_ycMax2 : (setTblParams t cut alpha s).ycMax2 = s.ycMax2 := rfl
@[simp] theorem setTblParams_tblCut : (setTblParams t cut alpha s).tblCut = cellSet 0 s.tblCut t cut := rfl
@[simp] theorem setTblParams_tblAlpha : (setTblParams t cut alpha s).tblAlpha = cellSet 0 s.tblAlpha t alpha := rfl
@[simp] theorem setTblParams_ctx : (setTblParams t cut alpha s).ctx = s.ctx := rfl
@[simp] theorem setTblParams_tbl : (setTblParams t cut alpha s).tbl = s.tbl := rfl
@[simp] theorem setTblParams_hold : (setTblParams t cut alpha s).hold = s.hold := rfl
@[simp] theorem setTblParams_cmd : (setTblParams t cut alpha s).cmd = s.cmd := rfl
@[simp] theorem setTblParams_src : (setTblParams t cut alpha s).src = s.src := rfl
@[simp] theorem setTblParams_srcEof : (setTblParams t cut alpha s).srcEof = s.srcEof := rfl
@[simp] theorem setTblParams_snk : (setTblParams t cut alpha s).snk = s.snk := rfl
@[simp] theorem setTblParams_resp : (setTblParams t cut alpha s).resp = s.resp := rfl

end

section
variable (ws : List Word) (s : State)

@[simp] theorem hostSend_cfg : (hostSend ws s).cfg = s.cfg := rfl
@[simp] theorem hostSend_mode : (hostSend ws s).mode = s.mode := rfl
@[simp] theorem hostSend_faulted : (hostSend ws s).faulted = s.faulted := rfl
@[simp] theorem hostSend_attached : (hostSend ws s).attached = s.attached := rfl
@[simp] theorem hostSend_cause : (hostSend ws s).cause = s.cause := rfl
@[simp] theorem hostSend_ctrl : (hostSend ws s).ctrl = s.ctrl := rfl
@[simp] theorem hostSend_faultInfo : (hostSend ws s).faultInfo = s.faultInfo := rfl
@[simp] theorem hostSend_bytesIn : (hostSend ws s).bytesIn = s.bytesIn := rfl
@[simp] theorem hostSend_bytesOut : (hostSend ws s).bytesOut = s.bytesOut := rfl
@[simp] theorem hostSend_rcLow : (hostSend ws s).rcLow = s.rcLow := rfl
@[simp] theorem hostSend_rcRange : (hostSend ws s).rcRange = s.rcRange := rfl
@[simp] theorem hostSend_rcDelayed : (hostSend ws s).rcDelayed = s.rcDelayed := rfl
@[simp] theorem hostSend_rcPending : (hostSend ws s).rcPending = s.rcPending := rfl
@[simp] theorem hostSend_ycPar : (hostSend ws s).ycPar = s.ycPar := rfl
@[simp] theorem hostSend_ycMax0 : (hostSend ws s).ycMax0 = s.ycMax0 := rfl
@[simp] theorem hostSend_ycMax1 : (hostSend ws s).ycMax1 = s.ycMax1 := rfl
@[simp] theorem hostSend_ycMax2 : (hostSend ws s).ycMax2 = s.ycMax2 := rfl
@[simp] theorem hostSend_tblCut : (hostSend ws s).tblCut = s.tblCut := rfl
@[simp] theorem hostSend_tblAlpha : (hostSend ws s).tblAlpha = s.tblAlpha := rfl
@[simp] theorem hostSend_ctx : (hostSend ws s).ctx = s.ctx := rfl
@[simp] theorem hostSend_tbl : (hostSend ws s).tbl = s.tbl := rfl
@[simp] theorem hostSend_hold : (hostSend ws s).hold = s.hold := rfl
@[simp] theorem hostSend_cmd : (hostSend ws s).cmd = s.cmd ++ ws := rfl
@[simp] theorem hostSend_src : (hostSend ws s).src = s.src := rfl
@[simp] theorem hostSend_srcEof : (hostSend ws s).srcEof = s.srcEof := rfl
@[simp] theorem hostSend_snk : (hostSend ws s).snk = s.snk := rfl
@[simp] theorem hostSend_resp : (hostSend ws s).resp = s.resp := rfl

end

section
variable (bs : List Byte) (s : State)

@[simp] theorem hostFeed_cfg : (hostFeed bs s).cfg = s.cfg := rfl
@[simp] theorem hostFeed_mode : (hostFeed bs s).mode = s.mode := rfl
@[simp] theorem hostFeed_faulted : (hostFeed bs s).faulted = s.faulted := rfl
@[simp] theorem hostFeed_attached : (hostFeed bs s).attached = s.attached := rfl
@[simp] theorem hostFeed_cause : (hostFeed bs s).cause = s.cause := rfl
@[simp] theorem hostFeed_ctrl : (hostFeed bs s).ctrl = s.ctrl := rfl
@[simp] theorem hostFeed_faultInfo : (hostFeed bs s).faultInfo = s.faultInfo := rfl
@[simp] theorem hostFeed_bytesIn : (hostFeed bs s).bytesIn = s.bytesIn := rfl
@[simp] theorem hostFeed_bytesOut : (hostFeed bs s).bytesOut = s.bytesOut := rfl
@[simp] theorem hostFeed_rcLow : (hostFeed bs s).rcLow = s.rcLow := rfl
@[simp] theorem hostFeed_rcRange : (hostFeed bs s).rcRange = s.rcRange := rfl
@[simp] theorem hostFeed_rcDelayed : (hostFeed bs s).rcDelayed = s.rcDelayed := rfl
@[simp] theorem hostFeed_rcPending : (hostFeed bs s).rcPending = s.rcPending := rfl
@[simp] theorem hostFeed_ycPar : (hostFeed bs s).ycPar = s.ycPar := rfl
@[simp] theorem hostFeed_ycMax0 : (hostFeed bs s).ycMax0 = s.ycMax0 := rfl
@[simp] theorem hostFeed_ycMax1 : (hostFeed bs s).ycMax1 = s.ycMax1 := rfl
@[simp] theorem hostFeed_ycMax2 : (hostFeed bs s).ycMax2 = s.ycMax2 := rfl
@[simp] theorem hostFeed_tblCut : (hostFeed bs s).tblCut = s.tblCut := rfl
@[simp] theorem hostFeed_tblAlpha : (hostFeed bs s).tblAlpha = s.tblAlpha := rfl
@[simp] theorem hostFeed_ctx : (hostFeed bs s).ctx = s.ctx := rfl
@[simp] theorem hostFeed_tbl : (hostFeed bs s).tbl = s.tbl := rfl
@[simp] theorem hostFeed_hold : (hostFeed bs s).hold = s.hold := rfl
@[simp] theorem hostFeed_cmd : (hostFeed bs s).cmd = s.cmd := rfl
@[simp] theorem hostFeed_src : (hostFeed bs s).src = s.src ++ bs := rfl
@[simp] theorem hostFeed_srcEof : (hostFeed bs s).srcEof = s.srcEof := rfl
@[simp] theorem hostFeed_snk : (hostFeed bs s).snk = s.snk := rfl
@[simp] theorem hostFeed_resp : (hostFeed bs s).resp = s.resp := rfl

end

section
variable (s : State)

@[simp] theorem hostSetEof_cfg : (hostSetEof s).cfg = s.cfg := rfl
@[simp] theorem hostSetEof_mode : (hostSetEof s).mode = s.mode := rfl
@[simp] theorem hostSetEof_faulted : (hostSetEof s).faulted = s.faulted := rfl
@[simp] theorem hostSetEof_attached : (hostSetEof s).attached = s.attached := rfl
@[simp] theorem hostSetEof_cause : (hostSetEof s).cause = s.cause := rfl
@[simp] theorem hostSetEof_ctrl : (hostSetEof s).ctrl = s.ctrl := rfl
@[simp] theorem hostSetEof_faultInfo : (hostSetEof s).faultInfo = s.faultInfo := rfl
@[simp] theorem hostSetEof_bytesIn : (hostSetEof s).bytesIn = s.bytesIn := rfl
@[simp] theorem hostSetEof_bytesOut : (hostSetEof s).bytesOut = s.bytesOut := rfl
@[simp] theorem hostSetEof_rcLow : (hostSetEof s).rcLow = s.rcLow := rfl
@[simp] theorem hostSetEof_rcRange : (hostSetEof s).rcRange = s.rcRange := rfl
@[simp] theorem hostSetEof_rcDelayed : (hostSetEof s).rcDelayed = s.rcDelayed := rfl
@[simp] theorem hostSetEof_rcPending : (hostSetEof s).rcPending = s.rcPending := rfl
@[simp] theorem hostSetEof_ycPar : (hostSetEof s).ycPar = s.ycPar := rfl
@[simp] theorem hostSetEof_ycMax0 : (hostSetEof s).ycMax0 = s.ycMax0 := rfl
@[simp] theorem hostSetEof_ycMax1 : (hostSetEof s).ycMax1 = s.ycMax1 := rfl
@[simp] theorem hostSetEof_ycMax2 : (hostSetEof s).ycMax2 = s.ycMax2 := rfl
@[simp] theorem hostSetEof_tblCut : (hostSetEof s).tblCut = s.tblCut := rfl
@[simp] theorem hostSetEof_tblAlpha : (hostSetEof s).tblAlpha = s.tblAlpha := rfl
@[simp] theorem hostSetEof_ctx : (hostSetEof s).ctx = s.ctx := rfl
@[simp] theorem hostSetEof_tbl : (hostSetEof s).tbl = s.tbl := rfl
@[simp] theorem hostSetEof_hold : (hostSetEof s).hold = s.hold := rfl
@[simp] theorem hostSetEof_cmd : (hostSetEof s).cmd = s.cmd := rfl
@[simp] theorem hostSetEof_src : (hostSetEof s).src = s.src := rfl
@[simp] theorem hostSetEof_srcEof : (hostSetEof s).srcEof = true := rfl
@[simp] theorem hostSetEof_snk : (hostSetEof s).snk = s.snk := rfl
@[simp] theorem hostSetEof_resp : (hostSetEof s).resp = s.resp := rfl

end

section
variable (nbits w : Nat) (s : State)

@[simp] theorem placeWords_cfg : (placeWords nbits w s).cfg = s.cfg := rfl
@[simp] theorem placeWords_mode : (placeWords nbits w s).mode = s.mode := rfl
@[simp] theorem placeWords_faulted : (placeWords nbits w s).faulted = s.faulted := rfl
@[simp] theorem placeWords_attached : (placeWords nbits w s).attached = s.attached := rfl
@[simp] theorem placeWords_cause : (placeWords nbits w s).cause = s.cause := rfl
@[simp] theorem placeWords_ctrl : (placeWords nbits w s).ctrl = s.ctrl := rfl
@[simp] theorem placeWords_faultInfo : (placeWords nbits w s).faultInfo = s.faultInfo := rfl
@[simp] theorem placeWords_bytesIn : (placeWords nbits w s).bytesIn = s.bytesIn := rfl
@[simp] theorem placeWords_bytesOut : (placeWords nbits w s).bytesOut = s.bytesOut := rfl
@[simp] theorem placeWords_rcLow : (placeWords nbits w s).rcLow = s.rcLow := rfl
@[simp] theorem placeWords_rcRange : (placeWords nbits w s).rcRange = s.rcRange := rfl
@[simp] theorem placeWords_rcDelayed : (placeWords nbits w s).rcDelayed = s.rcDelayed := rfl
@[simp] theorem placeWords_rcPending : (placeWords nbits w s).rcPending = s.rcPending := rfl
@[simp] theorem placeWords_ycPar : (placeWords nbits w s).ycPar = s.ycPar := rfl
@[simp] theorem placeWords_ycMax0 : (placeWords nbits w s).ycMax0 = s.ycMax0 := rfl
@[simp] theorem placeWords_ycMax1 : (placeWords nbits w s).ycMax1 = s.ycMax1 := rfl
@[simp] theorem placeWords_ycMax2 : (placeWords nbits w s).ycMax2 = s.ycMax2 := rfl
@[simp] theorem placeWords_tblCut : (placeWords nbits w s).tblCut = s.tblCut := rfl
@[simp] theorem placeWords_tblAlpha : (placeWords nbits w s).tblAlpha = s.tblAlpha := rfl
@[simp] theorem placeWords_ctx : (placeWords nbits w s).ctx = s.ctx := rfl
@[simp] theorem placeWords_tbl : (placeWords nbits w s).tbl = s.tbl := rfl
@[simp] theorem placeWords_hold : (placeWords nbits w s).hold = none := rfl
@[simp] theorem placeWords_cmd : (placeWords nbits w s).cmd = tableWords nbits w := rfl
@[simp] theorem placeWords_src : (placeWords nbits w s).src = s.src := rfl
@[simp] theorem placeWords_srcEof : (placeWords nbits w s).srcEof = s.srcEof := rfl
@[simp] theorem placeWords_snk : (placeWords nbits w s).snk = s.snk := rfl
@[simp] theorem placeWords_resp : (placeWords nbits w s).resp = s.resp := rfl

end

end Sys2Proof.Machine
end

