-- ==== Sys2Proof/Laws/Ops.lean ====
section
/-! SUPPORT. What the shared operations can do: fault entry, the checks before a command, the register map, CTX and TBL. -/

namespace Sys2Proof.Machine

/-! ### Answers and faults -/

/-- The first fault is recorded (60_exceptions R272). -/
theorem takeFault_first {w : Word} {c : Cause} {s : State} (h : s.faulted = false) :
    takeFault w c s = { s with faulted := true, cause := c, faultInfo := w, resp := s.resp ++ [.fault c] } := by
  simp [takeFault, h]

/-- A later fault is only answered (60_exceptions R272). -/
theorem takeFault_later {w : Word} {c : Cause} {s : State} (h : s.faulted = true) :
    takeFault w c s = { s with resp := s.resp ++ [.fault c] } := by
  simp [takeFault, ← h]

/-- Outside the faulted state a command's own checks run. -/
theorem unlessFaulted_of_ok {w : Word} {s : State} {body : Result} (h : s.faulted = false) :
    unlessFaulted w s body = body := by simp [unlessFaulted, h]

/-- In the faulted state a command only answers FAULTED_STATE (60_exceptions R273). -/
theorem unlessFaulted_of_faulted {w : Word} {s : State} {body : Result} (h : s.faulted = true) :
    unlessFaulted w s body = .next { s with resp := s.resp ++ [.fault .faultedState] } := by
  simp [unlessFaulted, raiseFault, h, takeFault_later h]

/-- What a command guarded by the faulted state can do. -/
theorem unlessFaulted_cases (w : Word) (s : State) (body : Result) :
    (s.faulted = false ∧ unlessFaulted w s body = body) ∨
    (s.faulted = true ∧ unlessFaulted w s body = .next { s with resp := s.resp ++ [.fault .faultedState] }) := by
  by_cases h : s.faulted = true
  · exact .inr ⟨h, unlessFaulted_of_faulted h⟩
  · have h := Bool.eq_false_iff.2 h
    exact .inl ⟨h, unlessFaulted_of_ok h⟩

/-! ### Registers -/

/-- The registers a fixed number names are those below 0x0F. -/
theorem csrFixed_isSome (s : State) {n : Nat} (h : n < 0x0F) : csrFixed s n ≠ none := by
  interval_cases n <;> simp [csrFixed]

/-- Which numbers the map of 10_state R35 has. -/
theorem csrRead_eq_none_iff (s : State) (hn : s.cfg.ntab ≤ 16) (n : Nat) :
    csrRead s n = none ↔ n = 0x0F ∨ (0x10 + s.cfg.ntab ≤ n ∧ n < 0x20) ∨ 0x20 + s.cfg.ntab ≤ n := by
  unfold csrRead
  by_cases h0 : n < 0x10
  · rw [if_pos h0]
    by_cases h1 : n < 0x0F
    · have := csrFixed_isSome s h1
      constructor
      · intro h; exact absurd h this
      · intro h; omega
    · have : n = 0x0F := by omega
      subst this
      simp [csrFixed]
  · rw [if_neg h0]
    by_cases h1 : n < 0x10 + s.cfg.ntab
    · rw [if_pos h1]
      simp only [reduceCtorEq, false_iff]
      omega
    · rw [if_neg h1]
      by_cases h2 : 0x20 ≤ n ∧ n < 0x20 + s.cfg.ntab
      · rw [if_pos h2]
        simp only [reduceCtorEq, false_iff]
        omega
      · rw [if_neg h2]
        simp only [true_iff]
        omega

/-- TBL_CUT[t] in the map. -/
theorem csrRead_tblCut (s : State) {t : Nat} (h : t < s.cfg.ntab) : csrRead s (0x10 + t) = some (tblCutOf s t) := by
  have h0 : ¬ 0x10 + t < 0x10 := by omega
  have h1 : 0x10 + t < 0x10 + s.cfg.ntab := by omega
  simp only [csrRead, if_neg h0, if_pos h1, Nat.add_sub_cancel_left]

/-- TBL_ALPHA[t] in the map, for a legal number of tables. -/
theorem csrRead_tblAlpha (s : State) (hn : s.cfg.ntab ≤ 16) {t : Nat} (h : t < s.cfg.ntab) :
    csrRead s (0x20 + t) = some (tblAlphaOf s t) := by
  have h0 : ¬ 0x20 + t < 0x10 := by omega
  have h1 : ¬ 0x20 + t < 0x10 + s.cfg.ntab := by omega
  have h2 : 0x20 ≤ 0x20 + t ∧ 0x20 + t < 0x20 + s.cfg.ntab := by omega
  simp only [csrRead, if_neg h0, if_neg h1, if_pos h2, Nat.add_sub_cancel_left]

/-! ### CTX -/

/-- A context read after a context write. -/
theorem ctxRead_write (s : State) (i k : Nat) (v : BitVec 12) :
    ctxRead (ctxWrite i v s) k = if k = i then v else ctxRead s k := cellGet_set _ _ _ _ _

@[simp] theorem ctxRead_clear (s : State) (k : Nat) : ctxRead (ctxClear s) k = 0x800 := rfl

/-- States with the same CTX read the same contexts. -/
theorem ctxRead_congr {s t : State} (h : t.ctx = s.ctx) (k : Nat) : ctxRead t k = ctxRead s k := by
  simp only [ctxRead, h]

/-- A context of a canonical array whose listed values are not 0 is not 0 (10_state R50). -/
theorem ctxRead_ne_zero {s : State} (h : ∀ x ∈ s.ctx, x.2 ≠ 0) (k : Nat) : ctxRead s k ≠ 0 := by
  have hf : ∀ (m : List (Nat × BitVec 12)), (∀ x ∈ m, x.2 ≠ 0) → cellGet 0x800 m k ≠ 0 := by
    intro m
    induction m with
    | nil => intro _; simp [cellGet]
    | cons x m ih =>
      intro hm
      obtain ⟨j, v⟩ := x
      unfold cellGet
      rw [cellFind_cons]
      split
      · exact hm (j, v) (List.mem_cons_self ..)
      · exact ih (fun y hy => hm y (List.mem_cons_of_mem _ hy))
  exact hf s.ctx h

/-! ### TBL -/

/-- The places of TBL are those of its three indexes. -/
theorem tblKey_inj {t t' st st' : Nat} {b b' : Bool} (hs : st < 4096) (hs' : st' < 4096)
    (h : tblKey t b st = tblKey t' b' st') : t = t' ∧ b = b' ∧ st = st' := by
  unfold tblKey at h
  have hb := b.toNat_le
  have hb' := b'.toNat_le
  have h1 : t = t' := by omega
  have h2 : b.toNat = b'.toNat := by omega
  refine ⟨h1, ?_, by omega⟩
  cases b <;> cases b' <;> simp_all

theorem tblKey_lt {t ntab st : Nat} {b : Bool} (ht : t < ntab) (hs : st < 4096) : tblKey t b st < 8192 * ntab := by
  unfold tblKey
  have hb := b.toNat_le
  omega

/-- A table entry read after a table entry is written. -/
theorem tblEntry_put (s : State) {t st t' st' : Nat} {b b' : Bool} (hs : st < 4096) (hs' : st' < 4096) (v : BitVec 16) :
    tblEntry (tblPut t b st v s) t' b' st' = if t' = t ∧ b' = b ∧ st' = st then some v else tblEntry s t' b' st' := by
  unfold tblEntry
  rw [tblPut_tbl, cellFind_put]
  by_cases h : tblKey t' b' st' = tblKey t b st
  · rw [if_pos h, if_pos (tblKey_inj hs' hs h)]
  · rw [if_neg h, if_neg]
    rintro ⟨rfl, rfl, rfl⟩
    exact h rfl

/-- The two rows of a table as loaded hold nothing outside the table. -/
theorem cellFind_rows_outside {t : Nat} {r0 r1 : List (BitVec 16)} (h0 : r0.length = 4096) (h1 : r1.length = 4096)
    {j : Nat} (hj : j < tblKey t false 0 ∨ tblKey (t + 1) false 0 ≤ j) :
    cellFind (cellRow (tblKey t false 0) r0 ++ cellRow (tblKey t true 0) r1) j = none := by
  rw [cellFind_append, cellFind_row, cellFind_row]
  simp only [tblKey, Bool.toNat_false, Bool.toNat_true] at *
  rw [Option.or_eq_none_iff]
  exact ⟨ite_eq_right_iff.2 fun _ => List.getElem?_eq_none (by omega),
    ite_eq_right_iff.2 fun _ => List.getElem?_eq_none (by omega)⟩

/-- A table entry read after a whole table is loaded. -/
theorem tblEntry_load (s : State) {t t' st : Nat} {b : Bool} {r0 r1 : List (BitVec 16)} (h0 : r0.length = 4096)
    (h1 : r1.length = 4096) (hs : st < 4096) :
    tblEntry (tblLoad t r0 r1 s) t' b st = if t' = t then (if b then r1 else r0)[st]? else tblEntry s t' b st := by
  unfold tblEntry
  have hle : tblKey t false 0 ≤ tblKey (t + 1) false 0 := by simp [tblKey]
  rw [tblLoad_tbl, cellFind_block _ _ _ _ _ (fun j hj => cellFind_rows_outside h0 h1 hj) hle]
  have hb := b.toNat_le
  by_cases ht : t' = t
  · subst ht
    rw [if_pos, if_pos rfl, cellFind_append, cellFind_row, cellFind_row]
    · cases b
      · have h2 : tblKey t' false 0 ≤ tblKey t' false st := by simp [tblKey]
        have h3 : tblKey t' false st - tblKey t' false 0 = st := by simp [tblKey]
        have h4 : ¬ tblKey t' true 0 ≤ tblKey t' false st := by simp [tblKey]; omega
        simp [h2, h3, h4]
      · have h2 : tblKey t' false 0 ≤ tblKey t' true st := by simp [tblKey]; omega
        have h3 : r0.length ≤ tblKey t' true st - tblKey t' false 0 := by simp [tblKey, h0]; omega
        have h4 : tblKey t' true 0 ≤ tblKey t' true st := by simp [tblKey]
        have h5 : tblKey t' true st - tblKey t' true 0 = st := by simp [tblKey]
        simp [h2, h3, h4, h5]
    · simp only [tblKey, Bool.toNat_false]
      omega
  · rw [if_neg, if_neg ht]
    simp only [tblKey, Bool.toNat_false]
    omega

/-- Loading a table keeps the form of TBL. -/
theorem tblLoad_openWf {s : State} {t : Nat} {r0 r1 : List (BitVec 16)} (h : cellsOpenWf (8192 * s.cfg.ntab) s.tbl)
    (h0 : r0.length = 4096) (h1 : r1.length = 4096) (ht : t < s.cfg.ntab) :
    cellsOpenWf (8192 * s.cfg.ntab) (tblLoad t r0 r1 s).tbl := by
  rw [tblLoad_tbl]
  refine cellBlock_openWf h ?_ ?_ ?_ ?_
  · refine List.pairwise_append.2 ⟨cellRow_sorted _ _, cellRow_sorted _ _, fun x hx y hy => ?_⟩
    have hx := (cellRow_mem hx).2
    have hy := (cellRow_mem hy).1
    simp only [tblKey, Bool.toNat_false, Bool.toNat_true] at hx hy
    omega
  · intro x hx
    simp only [tblKey, Bool.toNat_false, Bool.toNat_true] at *
    rcases List.mem_append.1 hx with hx | hx <;> have := cellRow_mem hx <;> omega
  · simp [tblKey]
  · simp [tblKey]; omega

/-- TBL_CUT and TBL_ALPHA after they are set. -/
theorem tblCutOf_set (s : State) (t k : Nat) (cut alpha : Word) :
    tblCutOf (setTblParams t cut alpha s) k = if k = t then cut else tblCutOf s k := cellGet_set _ _ _ _ _

theorem tblAlphaOf_set (s : State) (t k : Nat) (cut alpha : Word) :
    tblAlphaOf (setTblParams t cut alpha s) k = if k = t then alpha else tblAlphaOf s k := cellGet_set _ _ _ _ _

/-! ### Ports -/

/-- `ReadByte` with a byte in the source. -/
theorem readByte_cons {s : State} {b : Byte} {rest : List Byte} (h : s.src = b :: rest) :
    readByte s = some (b, takeByte rest s) := by simp [readByte, h]

/-- `ReadByte` with none. -/
theorem readByte_nil {s : State} (h : s.src = []) : readByte s = none := by simp [readByte, h]

/-- Writing bytes one list after another is writing them at once. -/
theorem writeBytes_append (as bs : List Byte) (s : State) : writeBytes (as ++ bs) s = writeBytes bs (writeBytes as s) := by
  simp only [writeBytes, List.append_assoc, List.length_append, BitVec.ofNat_add, BitVec.add_assoc]

end Sys2Proof.Machine
end

