-- ==== Sys2Proof/Laws/Coder.lean ====
section
/-! SUPPORT. What the shared operations of the range coder, the bit-chance unit and the tables can do: their cases and their frames. -/

namespace Sys2Proof.Machine

/-! ### Encoding -/

/-- Only the encoder's registers and the sink differ. -/
abbrev frameCoder (s t : State) : Prop :=
  t = { s with
    rcLow := t.rcLow, rcRange := t.rcRange, rcDelayed := t.rcDelayed, rcPending := t.rcPending,
    bytesOut := t.bytesOut, snk := t.snk }

theorem frameCoder.trans {s t u : State} (h1 : frameCoder s t) (h2 : frameCoder t u) : frameCoder s u := by
  unfold frameCoder at *
  rw [h2, h1]

/-- What one iteration of EncRenorm can do (40_range_coder R125): it is in one of the four branches. -/
theorem encShift_cases {s t : State} (h : encShift s = some t) :
    (s.rcDelayed = none ∧ t = shiftInterval (setCarry (some (topByte s)) s.rcPending s)) ∨
    (∃ d, s.rcDelayed = some d ∧ s.rcLow.toNat + s.rcRange.toNat < 2 ^ 24 ∧
      t = shiftInterval (emitDelayed d 0xFF (topByte s) s)) ∨
    (∃ d, s.rcDelayed = some d ∧ 2 ^ 24 ≤ s.rcLow.toNat ∧
      t = shiftInterval (emitDelayed (d + 1) 0x00 (topByte s) s)) ∨
    (∃ d, s.rcDelayed = some d ∧ 2 ^ 24 ≤ s.rcLow.toNat + s.rcRange.toNat ∧ s.rcLow.toNat < 2 ^ 24 ∧
      s.rcPending.toNat ≠ 2 ^ s.cfg.pendW - 1 ∧ t = shiftInterval (setCarry (some d) (s.rcPending + 1) s)) := by
  unfold encShift at h
  split at h
  · exact .inl ⟨‹_›, (Option.some.inj h).symm⟩
  · rename_i d hd
    split at h
    · exact .inr (.inl ⟨d, hd, ‹_›, (Option.some.inj h).symm⟩)
    · split at h
      · exact .inr (.inr (.inl ⟨d, hd, ‹_›, (Option.some.inj h).symm⟩))
      · split at h
        · cases h
        · exact .inr (.inr (.inr ⟨d, hd, by omega, by omega, ‹_›, (Option.some.inj h).symm⟩))

/-- When one iteration raises PENDING_OVERFLOW (40_range_coder R125). -/
theorem encShift_eq_none_iff (s : State) :
    encShift s = none ↔ ∃ d, s.rcDelayed = some d ∧ 2 ^ 24 ≤ s.rcLow.toNat + s.rcRange.toNat ∧
      s.rcLow.toNat < 2 ^ 24 ∧ s.rcPending.toNat = 2 ^ s.cfg.pendW - 1 := by
  unfold encShift
  cases s.rcDelayed with
  | none => simp
  | some d =>
    simp only [Option.some.injEq, exists_eq_left']
    split
    · simp; omega
    · split
      · simp; omega
      · split <;> simp <;> omega

/-- The interval after one iteration (40_range_coder R125): it does not depend on the branch. -/
theorem encShift_interval {s t : State} (h : encShift s = some t) :
    t.rcLow = BitVec.ofNat 32 (s.rcLow.toNat % 2 ^ 16 * 2 ^ 8) ∧ t.rcRange = BitVec.ofNat 32 (s.rcRange.toNat * 2 ^ 8) := by
  rcases encShift_cases h with ⟨-, rfl⟩ | ⟨d, -, -, rfl⟩ | ⟨d, -, -, rfl⟩ | ⟨d, -, -, -, -, rfl⟩ <;>
    simp [shiftInterval, emitDelayed]

/-- After one iteration a byte is delayed. -/
theorem encShift_delayed {s t : State} (h : encShift s = some t) : t.rcDelayed ≠ none := by
  rcases encShift_cases h with ⟨-, rfl⟩ | ⟨d, -, -, rfl⟩ | ⟨d, -, -, rfl⟩ | ⟨d, -, -, -, -, rfl⟩ <;>
    simp [shiftInterval, emitDelayed]

theorem encShift_frame {s t : State} (h : encShift s = some t) : frameCoder s t := by
  rcases encShift_cases h with ⟨-, rfl⟩ | ⟨d, -, -, rfl⟩ | ⟨d, -, -, rfl⟩ | ⟨d, -, -, -, -, rfl⟩ <;> rfl

/-- What one iteration writes to the sink is what it adds to BYTES_OUT (10_state R40). -/
theorem encShift_bytes {s t : State} (h : encShift s = some t) :
    ∃ bs, t.snk = s.snk ++ bs ∧ t.bytesOut = s.bytesOut + BitVec.ofNat 32 bs.length := by
  rcases encShift_cases h with ⟨-, rfl⟩ | ⟨d, -, -, rfl⟩ | ⟨d, -, -, rfl⟩ | ⟨d, -, -, -, -, rfl⟩
  · exact ⟨[], by simp [shiftInterval]⟩
  · exact ⟨_, rfl, rfl⟩
  · exact ⟨_, rfl, rfl⟩
  · exact ⟨[], by simp [shiftInterval]⟩

/-- An interval wide enough needs no iteration. -/
theorem encRenorm_wide {s : State} (h : minRange < s.rcRange.toNat) (n : Nat) : encRenorm n s = .done s := by
  unfold encRenorm
  rw [if_pos h]

/-- A narrow interval needs one, and then the rest. -/
theorem encRenorm_narrow {s : State} (h : ¬ minRange < s.rcRange.toNat) (n : Nat) :
    encRenorm (n + 1) s = (match encShift s with | none => .overflow s | some s' => encRenorm n s') := by
  conv_lhs => unfold encRenorm
  exact if_neg h

/-- EncRenorm, however it ends, keeps to the encoder's frame (40_range_coder R125). -/
theorem encRenorm_frame {n : Nat} {s t : State} (h : encRenorm n s = .done t ∨ encRenorm n s = .overflow t) :
    frameCoder s t := by
  induction n generalizing s with
  | zero =>
    unfold encRenorm at h
    split at h
    · rcases h with h | h <;> cases h
      rfl
    · rcases h with h | h <;> cases h
  | succ n ih =>
    by_cases hw : minRange < s.rcRange.toNat
    · rw [encRenorm_wide hw] at h
      rcases h with h | h <;> cases h
      rfl
    · rw [encRenorm_narrow hw] at h
      cases hs : encShift s with
      | none =>
        rw [hs] at h
        rcases h with h | h <;> cases h
        rfl
      | some s' =>
        rw [hs] at h
        exact (encShift_frame hs).trans (ih h)

/-- EncRenorm that finishes leaves an interval above MIN_RANGE. -/
theorem encRenorm_done_wide {n : Nat} {s t : State} (h : encRenorm n s = .done t) : minRange < t.rcRange.toNat := by
  induction n generalizing s with
  | zero =>
    unfold encRenorm at h
    split at h
    · cases h
      assumption
    · cases h
  | succ n ih =>
    by_cases hw : minRange < s.rcRange.toNat
    · rw [encRenorm_wide hw] at h
      cases h
      exact hw
    · rw [encRenorm_narrow hw] at h
      cases hs : encShift s with
      | none => rw [hs] at h; cases h
      | some s' => rw [hs] at h; exact ih h

/-- What EncRenorm writes to the sink is what it adds to BYTES_OUT (10_state R40). -/
theorem encRenorm_bytes {n : Nat} {s t : State} (h : encRenorm n s = .done t ∨ encRenorm n s = .overflow t) :
    ∃ bs, t.snk = s.snk ++ bs ∧ t.bytesOut = s.bytesOut + BitVec.ofNat 32 bs.length := by
  induction n generalizing s with
  | zero =>
    unfold encRenorm at h
    split at h
    · rcases h with h | h <;> cases h
      exact ⟨[], by simp⟩
    · rcases h with h | h <;> cases h
  | succ n ih =>
    by_cases hw : minRange < s.rcRange.toNat
    · rw [encRenorm_wide hw] at h
      rcases h with h | h <;> cases h
      exact ⟨[], by simp⟩
    · rw [encRenorm_narrow hw] at h
      cases hs : encShift s with
      | none =>
        rw [hs] at h
        rcases h with h | h <;> cases h
        exact ⟨[], by simp⟩
      | some s' =>
        rw [hs] at h
        obtain ⟨as, ha, hb⟩ := encShift_bytes hs
        obtain ⟨bs, hc, hd⟩ := ih h
        exact ⟨as ++ bs, by simp [hc, ha], by simp [hd, hb, BitVec.ofNat_add, BitVec.add_assoc]⟩

theorem encSplit_frame (p : Nat) (bit : Bool) (s : State) : frameCoder s (encSplit p bit s) := by
  unfold encSplit
  dsimp only
  split <;> rfl

/-- EncodeBit keeps to the encoder's frame (40_range_coder R124). -/
theorem encodeBit_frame {p : Nat} {bit : Bool} {s t : State}
    (h : encodeBit p bit s = .done t ∨ encodeBit p bit s = .overflow t) : frameCoder s t :=
  (encSplit_frame p bit s).trans (encRenorm_frame h)

/-- How an operation that goes on can end. -/
theorem thenEnc_cases {e : EncEnd} {f : State → EncEnd} {t : State}
    (h : thenEnc e f = .done t ∨ thenEnc e f = .overflow t) :
    (∃ u, e = .done u ∧ (f u = .done t ∨ f u = .overflow t)) ∨ e = .overflow t := by
  cases e with
  | done u => exact .inl ⟨u, rfl, h⟩
  | overflow u => rcases h with h | h <;> cases h; exact .inr rfl
  | hang => rcases h with h | h <;> cases h

theorem setInterval_frame (low range : Nat) (s : State) : frameCoder s (setInterval low range s) := rfl

theorem flushShift_frame {s t : State} (h : flushShift s = .done t ∨ flushShift s = .overflow t) : frameCoder s t :=
  (setInterval_frame _ _ _).trans (encRenorm_frame h)

/-- The shifts of RC_FLUSH keep to the encoder's frame (40_range_coder R132). -/
theorem flushShifts_frame {n : Nat} {s t : State} (h : flushShifts n s = .done t ∨ flushShifts n s = .overflow t) :
    frameCoder s t := by
  induction n generalizing s with
  | zero =>
    unfold flushShifts at h
    rcases h with h | h <;> cases h
    rfl
  | succ n ih =>
    unfold flushShifts at h
    rcases thenEnc_cases h with ⟨u, hu, h⟩ | h
    · exact (flushShift_frame (.inl hu)).trans (ih h)
    · exact flushShift_frame (.inr h)

/-- How a command that encodes can answer. -/
theorem finishEnc_cases {w : Word} {e : EncEnd} {after : State → State} {t : State}
    (h : finishEnc w e after = .next t) :
    (∃ u, e = .done u ∧ t = respondOk [] (after u)) ∨ (∃ u, e = .overflow u ∧ t = takeFault w .pendingOverflow u) := by
  cases e with
  | done u => exact .inl ⟨u, rfl, (Host.Outcome.next.inj h).symm⟩
  | overflow u => exact .inr ⟨u, rfl, (Host.Outcome.next.inj h).symm⟩
  | hang => cases h

/-! ### Decoding -/

/-- Only the decoder's registers and the source differ. -/
abbrev frameSource (s t : State) : Prop :=
  t = { s with rcLow := t.rcLow, rcRange := t.rcRange, bytesIn := t.bytesIn, src := t.src }

theorem frameSource.trans {s t u : State} (h1 : frameSource s t) (h2 : frameSource t u) : frameSource s u := by
  unfold frameSource at *
  rw [h2, h1]

/-- DecRefill with a wide enough interval reads nothing. -/
theorem decRefill_wide {s : State} (h : minRange < s.rcRange.toNat) (bs : List Byte) : decRefill bs s = s := by
  cases bs with
  | nil => rfl
  | cons b rest => simp [decRefill, h]

/-- DecRefill by ReadByte (40_range_coder R127): it reads a byte while RC_RANGE is at most MIN_RANGE and there is one. -/
theorem decRefill_eq (s : State) :
    decRefill s.src s =
      (if minRange < s.rcRange.toNat then s
      else
        match readByte s with
        | none => s
        | some (b, u) => decRefill u.src (refillShift b u)) := by
  cases hs : s.src with
  | nil => simp [decRefill, readByte_nil hs]
  | cons b rest => rw [readByte_cons hs]; rfl

theorem decRefill_frame (bs : List Byte) (s : State) : frameSource s (decRefill bs s) := by
  induction bs generalizing s with
  | nil => rfl
  | cons b rest ih =>
    unfold decRefill
    split
    · rfl
    · have h0 : frameSource s (refillShift b (takeByte rest s)) := rfl
      exact h0.trans (ih _)

/-- DecRefill takes bytes from the front of the source and counts them (10_state R39, 20_memory R73). -/
theorem decRefill_bytes {bs : List Byte} {s : State} (h : s.src = bs) :
    ∃ k, k ≤ bs.length ∧ (decRefill bs s).src = bs.drop k ∧
      (decRefill bs s).bytesIn = s.bytesIn + BitVec.ofNat 32 k := by
  induction bs generalizing s with
  | nil => exact ⟨0, by simp [decRefill, h]⟩
  | cons b rest ih =>
    unfold decRefill
    split
    · exact ⟨0, by simp [h]⟩
    · obtain ⟨k, h1, h2, h3⟩ := ih (s := refillShift b (takeByte rest s)) rfl
      refine ⟨k + 1, by simpa using h1, by simpa using h2, ?_⟩
      rw [h3]
      simp only [refillShift, setInterval_bytesIn, takeByte_bytesIn, BitVec.ofNat_add, BitVec.add_assoc]
      exact congrArg _ (BitVec.add_comm _ _)

/-- DecRefill stops with a wide enough interval or an empty source (40_range_coder R127). -/
theorem decRefill_end {bs : List Byte} {s : State} (h : s.src = bs) :
    minRange < (decRefill bs s).rcRange.toNat ∨ (decRefill bs s).src = [] := by
  induction bs generalizing s with
  | nil => exact .inr h
  | cons b rest ih =>
    unfold decRefill
    split
    · exact .inl ‹_›
    · exact ih rfl

theorem decSplit_frame (p : Nat) (s : State) : frameSource s (decSplit p s) := by
  unfold decSplit
  dsimp only
  split <;> rfl

/-- How a decode ends (20_memory R73, R74; 40_range_coder R127). -/
theorem settleDecode_cases (w : Word) (bit : Bool) (u : Option (Nat × BitVec 12)) (s : State) :
    (minRange < s.rcRange.toNat ∧
      settleDecode w bit u s = respondOk [bitWord bit] (applyUpdate u (setHold none s))) ∨
    (s.rcRange.toNat ≤ minRange ∧ s.srcEof = true ∧
      settleDecode w bit u s = takeFault w .streamTruncated (setHold none s)) ∨
    (s.rcRange.toNat ≤ minRange ∧ s.srcEof = false ∧ settleDecode w bit u s = setHold (some ⟨w, .refill bit u⟩) s) := by
  unfold settleDecode
  split
  · exact .inl ⟨‹_›, rfl⟩
  · split
    · exact .inr (.inl ⟨by omega, ‹_›, rfl⟩)
    · rename_i h
      exact .inr (.inr ⟨by omega, Bool.eq_false_iff.2 h, rfl⟩)

/-- The reads of RC_START_DEC (40_range_coder R129): they take bytes from the front of the source, count them, and stop
short only when it is empty. -/
theorem fillWindow_spec (n : Nat) (s : State) :
    frameSource s (fillWindow n s).2 ∧ (fillWindow n s).1 ≤ n ∧
      (fillWindow n s).2.src = s.src.drop (n - (fillWindow n s).1) ∧
      (fillWindow n s).2.bytesIn = s.bytesIn + BitVec.ofNat 32 (n - (fillWindow n s).1) ∧
      ((fillWindow n s).1 = 0 ∨ (fillWindow n s).2.src = []) := by
  induction n generalizing s with
  | zero => simp [fillWindow, frameSource]
  | succ k ih =>
    cases hs : s.src with
    | nil =>
      have hf : fillWindow (k + 1) s = (k + 1, s) := by rw [fillWindow, readByte_nil hs]
      rw [hf]
      exact ⟨rfl, le_refl _, by simp [hs], by simp, .inr hs⟩
    | cons b rest =>
      have hf : fillWindow (k + 1) s = fillWindow k (pushLow b (takeByte rest s)) := by
        rw [fillWindow, readByte_cons hs]
      obtain ⟨h1, h2, h3, h4, h5⟩ := ih (pushLow b (takeByte rest s))
      have h0 : frameSource s (pushLow b (takeByte rest s)) := rfl
      have hsub : k + 1 - (fillWindow k (pushLow b (takeByte rest s))).1 =
          k - (fillWindow k (pushLow b (takeByte rest s))).1 + 1 := by omega
      rw [hf, hsub]
      refine ⟨h0.trans h1, by omega, by rw [h3]; simp [pushLow], ?_, h5⟩
      rw [h4]
      simp only [pushLow, setInterval_bytesIn, takeByte_bytesIn, BitVec.ofNat_add, BitVec.add_assoc]
      exact congrArg _ (BitVec.add_comm _ _)

/-- How RC_START_DEC ends (20_memory R73, R74; 40_range_coder R129). -/
theorem settleStart_cases (w : Word) (r : Nat × State) :
    (r.1 = 0 ∧ settleStart w r = respondOk [] (setMode .dec (setHold none r.2))) ∨
    (r.1 ≠ 0 ∧ r.2.srcEof = true ∧ settleStart w r = takeFault w .streamTruncated (setHold none r.2)) ∨
    (r.1 ≠ 0 ∧ r.2.srcEof = false ∧ settleStart w r = setHold (some ⟨w, .startDec r.1⟩) r.2) := by
  unfold settleStart
  split
  · exact .inl ⟨‹_›, rfl⟩
  · split
    · exact .inr (.inl ⟨‹_›, ‹_›, rfl⟩)
    · rename_i h0 h
      exact .inr (.inr ⟨h0, Bool.eq_false_iff.2 h, rfl⟩)

/-! ### Bit-chance and tables -/

theorem isChance_iff (v : BitVec 16) : isChance v = true ↔ 1 ≤ v.toNat ∧ v.toNat ≤ 4095 := by simp [isChance]

/-- CheckNext passes exactly when both rows' entries are set and are chances (41_bit_chance R167). -/
theorem checkNext_ok_iff (s : State) (t : Nat) (st : BitVec 12) (n : BitVec 12 × BitVec 12) :
    checkNext s t st = .ok n ↔ ∃ v0 v1, tblEntry s t false st.toNat = some v0 ∧ tblEntry s t true st.toNat = some v1 ∧
      isChance v0 = true ∧ isChance v1 = true ∧ n = (v0.setWidth 12, v1.setWidth 12) := by
  unfold checkNext
  constructor
  · intro h
    split at h
    · rename_i v0 v1 h0 h1
      split at h
      · rename_i hc
        rw [Bool.and_eq_true] at hc
        exact ⟨v0, v1, h0, h1, hc.1, hc.2, (Except.ok.inj h).symm⟩
      · cases h
    · cases h
    · cases h
    · cases h
  · rintro ⟨v0, v1, h0, h1, c0, c1, rfl⟩
    simp [h0, h1, c0, c1]

/-- The faults of CheckNext (41_bit_chance R167). -/
theorem checkNext_error {s : State} {t : Nat} {st : BitVec 12} {c : Cause} (h : checkNext s t st = .error c) :
    (c = .tableUnset ∧ (tblEntry s t false st.toNat = none ∨ tblEntry s t true st.toNat = none)) ∨
    (c = .badChance ∧ ∃ v0 v1, tblEntry s t false st.toNat = some v0 ∧ tblEntry s t true st.toNat = some v1 ∧
      ¬ (isChance v0 = true ∧ isChance v1 = true)) := by
  unfold checkNext at h
  split at h
  · rename_i v0 v1 h0 h1
    split at h
    · cases h
    · rename_i hc
      exact .inr ⟨(Except.error.inj h).symm, v0, v1, h0, h1, by simpa using hc⟩
  · rename_i h0 h1
    exact .inl ⟨(Except.error.inj h).symm, .inr h1⟩
  · rename_i h0 h1
    exact .inl ⟨(Except.error.inj h).symm, .inl h0⟩
  · rename_i h0 h1
    exact .inl ⟨(Except.error.inj h).symm, .inl h0⟩

/-- A checked next state is a chance of 12 bits, equal to its table entry (92_eei_decisions D21). -/
theorem setWidth_of_isChance {v : BitVec 16} (h : isChance v = true) :
    (v.setWidth 12).toNat = v.toNat ∧ v.setWidth 12 ≠ 0 := by
  have hv := (isChance_iff v).1 h
  have h1 : (v.setWidth 12).toNat = v.toNat := by
    rw [BitVec.toNat_setWidth, Nat.mod_eq_of_lt (by omega)]
  refine ⟨h1, fun h0 => ?_⟩
  rw [h0] at h1
  simp at h1
  omega

/-- The path of the first pass of 41_bit_chance R171 starts at 2048 and rises. -/
theorem pathState_lt (alpha n : Nat) : pathState alpha n < pathState alpha (n + 1) := by
  rw [pathState]
  omega

theorem pathState_ge (alpha n : Nat) : 2048 ≤ pathState alpha (n + 1) := by
  induction n with
  | zero => simp [pathState, pathProb]
  | succ n ih => exact ih.trans (pathState_lt alpha (n + 1)).le

/-- The rule's two ways to keep a state above the one before it are one maximum. -/
theorem ite_le_eq_max (x i : Nat) : (if x ≤ i then i + 1 else x) = max (i + 1) x := by
  split <;> omega

/-- The builder's second pass is the rule's. -/
theorem buildGap_eq (alpha m i : Nat) : buildGap alpha m i = gapState alpha m i :=
  congrArg (min · m) (ite_le_eq_max _ _)

theorem buildUp_length (cut alpha m n i : Nat) (path : List (Nat × Nat)) :
    (buildUp cut alpha m n i path).length = n := by
  induction n generalizing i path with
  | zero => rfl
  | succ k ih =>
    cases path with
    | nil => simp [buildUp, ih]
    | cons x rest =>
      rw [buildUp]
      split <;> simp [ih]

/-- Both rows of BUILD_FN have 4096 entries (41_bit_chance R170). -/
theorem buildFn_length (f : FnChoice) (cut alpha : Nat) :
    (buildFn f cut alpha).1.length = 4096 ∧ (buildFn f cut alpha).2.length = 4096 := by
  cases f with
  | spec =>
    have h : (specUp cut alpha).length = 4096 := buildUp_length ..
    refine ⟨by rw [buildFn, storedRow, List.length_map, h], ?_⟩
    show (storedRow (mirrorRow (specUp cut alpha))).length = 4096
    rw [storedRow, List.length_map, mirrorRow, List.length_cons, List.length_map, List.length_reverse,
      List.length_tail, h]
  | other n => exact ⟨by rw [buildFn, List.length_map, List.length_range],
      by rw [buildFn, List.length_map, List.length_range]⟩

end Sys2Proof.Machine
end

