-- ==== Sys2Proof/Laws/Decode.lean ====
section
/-! SUPPORT. Rows and words: a word selects at most one row, and how a mask reads the fields of an encoded word. -/

namespace Sys2Proof

/-- Every mask covers the opcode byte. -/
theorem mask_covers_opcode : ∀ r ∈ opcodeMap, r.mask &&& 0xFF000000 = 0xFF000000 := by decide

/-- Every mask covers the opcode byte, so a matching word has its row's opcode byte. -/
theorem opcode_of_match {w : Word} {r : OpRow} (hr : r ∈ opcodeMap) (h : w &&& r.mask = r.pattern) :
    w &&& 0xFF000000 = r.pattern &&& 0xFF000000 := by
  rw [← h, BitVec.and_assoc, mask_covers_opcode r hr]

/-- The opcode bytes of the rows differ. -/
theorem row_of_opcode : ∀ r ∈ opcodeMap, ∀ r' ∈ opcodeMap,
    r.pattern &&& 0xFF000000 = r'.pattern &&& 0xFF000000 → r = r' := by decide

/-- A word that matches a row selects that row. -/
theorem selectRow_of_match {w : Word} {r : OpRow} (hr : r ∈ opcodeMap) (h : w &&& r.mask = r.pattern) :
    selectRow w = some r := by
  unfold selectRow
  cases hf : opcodeMap.find? (fun r => w &&& r.mask == r.pattern) with
  | none => simpa [h] using List.find?_eq_none.1 hf r hr
  | some r' =>
    have h1 : w &&& r'.mask = r'.pattern := by simpa using List.find?_some hf
    have h2 : r' ∈ opcodeMap := List.mem_of_find?_eq_some hf
    rw [row_of_opcode r' h2 r hr ((opcode_of_match h2 h1).symm.trans (opcode_of_match hr h))]

/-- Decoding words whose first selects a row and which hold its arguments. -/
theorem decode_of_select {w : Word} {ws : List Word} {r : OpRow} (h : selectRow w = some r)
    (hn : r.nargs ≤ ws.length) : decode (w :: ws) = .command (assemble r.op w ws) (ws.drop r.nargs) := by
  simp [decode, h, Nat.not_lt.2 hn]

/-- A mask whose low `k` bits are clear reads only what stands above them. -/
theorem and_mul_two_pow (n m k : Nat) : n &&& m * 2 ^ k = (n / 2 ^ k &&& m) * 2 ^ k := by
  apply Nat.eq_of_testBit_eq
  intro i
  simp only [Nat.testBit_and, Nat.testBit_mul_two_pow, Nat.testBit_div_two_pow]
  by_cases h : k ≤ i <;> simp [h]

/-- A word matches a mask and a pattern whose low `k` bits are clear when the number above those bits does. -/
theorem match_of_high {n m p : Nat} (k : Nat) {mask pattern : Word} (hn : n < 2 ^ 32) (hm : mask.toNat = m * 2 ^ k)
    (hp : pattern.toNat = p * 2 ^ k) (h : n / 2 ^ k &&& m = p) : BitVec.ofNat 32 n &&& mask = pattern := by
  apply BitVec.eq_of_toNat_eq
  rw [BitVec.toNat_and, BitVec.toNat_ofNat, Nat.mod_eq_of_lt hn, hm, and_mul_two_pow, h, hp]

end Sys2Proof
end

