-- ==== Sys2Proof/Laws/PerInstr.lean ====
section
/-! SUPPORT. Per command: its command word selects the row of its own mnemonic, whose length is that of its arguments. -/

namespace Sys2Proof.Laws.SelectsOwnRow

/-- The word of a well-formed command selects the row of its own mnemonic, and it has as many argument words as that row. -/
def Statement (i : Instr) : Prop :=
  wellFormed i = true →
    ∃ r, selectRow (encodeWord i) = some r ∧ r.mnemonic = mnemonicOf i ∧ r.nargs = (encodeArgs i).length

/-- A row of the map whose mask and pattern the word meets. -/
theorem of_row {i : Instr} (r : OpRow) (hr : r ∈ opcodeMap) (hn : r.mnemonic = mnemonicOf i)
    (ha : r.nargs = (encodeArgs i).length) (h : wellFormed i = true → encodeWord i &&& r.mask = r.pattern) : Statement i :=
  fun hw => ⟨r, selectRow_of_match hr (h hw), hn, ha⟩

theorem nop : Statement .nop := of_row ⟨.nop, "NOP", 0, 0, 0x00000000, 0xFFFFFFFF⟩ (by decide) rfl rfl (fun _ => rfl)

theorem regRead (csr : Nat) : Statement (.regRead csr) := by
  refine of_row ⟨.regRead, "REG_READ", 0, 1, 0x01000000, 0xFFFFFF00⟩ (by decide) rfl rfl fun h => ?_
  simp only [wellFormed, decide_eq_true_eq] at h
  have hq : (0x01 * 2 ^ 24 + csr) / 2 ^ 8 = 0x10000 := by omega
  exact match_of_high (m := 0xFFFFFF) (p := 0x10000) 8 (by omega) rfl rfl (by rw [hq]; rfl)

theorem regWrite (csr : Nat) (value : Word) : Statement (.regWrite csr value) := by
  refine of_row ⟨.regWrite, "REG_WRITE", 1, 0, 0x02000000, 0xFFFFFF00⟩ (by decide) rfl rfl fun h => ?_
  simp only [wellFormed, decide_eq_true_eq] at h
  have hq : (0x02 * 2 ^ 24 + csr) / 2 ^ 8 = 0x20000 := by omega
  exact match_of_high (m := 0xFFFFFF) (p := 0x20000) 8 (by omega) rfl rfl (by rw [hq]; rfl)

theorem rcStartEnc : Statement .rcStartEnc :=
  of_row ⟨.rcStartEnc, "RC_START_ENC", 0, 0, 0x10000000, 0xFFFFFFFF⟩ (by decide) rfl rfl (fun _ => rfl)

theorem rcStartDec : Statement .rcStartDec :=
  of_row ⟨.rcStartDec, "RC_START_DEC", 0, 0, 0x11000000, 0xFFFFFFFF⟩ (by decide) rfl rfl (fun _ => rfl)

theorem rcFlush : Statement .rcFlush :=
  of_row ⟨.rcFlush, "RC_FLUSH", 0, 0, 0x12000000, 0xFFFFFFFF⟩ (by decide) rfl rfl (fun _ => rfl)

theorem rcAbort : Statement .rcAbort :=
  of_row ⟨.rcAbort, "RC_ABORT", 0, 0, 0x13000000, 0xFFFFFFFF⟩ (by decide) rfl rfl (fun _ => rfl)

theorem rcEncP (bit : Bool) (p : Nat) : Statement (.rcEncP bit p) := by
  refine of_row ⟨.rcEncP, "RC_ENC_P", 0, 0, 0x14000000, 0xFFFFE000⟩ (by decide) rfl rfl fun h => ?_
  simp only [wellFormed, decide_eq_true_eq] at h
  have hb := bit.toNat_le
  have hq : (0x14 * 2 ^ 24 + bit.toNat * 2 ^ 12 + p) / 2 ^ 13 = 0xA000 := by omega
  exact match_of_high (m := 0x7FFFF) (p := 0xA000) 13 (by omega) rfl rfl (by rw [hq]; rfl)

theorem rcDecP (p : Nat) : Statement (.rcDecP p) := by
  refine of_row ⟨.rcDecP, "RC_DEC_P", 0, 1, 0x15000000, 0xFFFFF000⟩ (by decide) rfl rfl fun h => ?_
  simp only [wellFormed, decide_eq_true_eq] at h
  have hq : (0x15 * 2 ^ 24 + false.toNat * 2 ^ 12 + p) / 2 ^ 12 = 0x15000 := by simp; omega
  exact match_of_high (m := 0xFFFFF) (p := 0x15000) 12 (by simp; omega) rfl rfl (by rw [hq]; rfl)

theorem bcClear : Statement .bcClear :=
  of_row ⟨.bcClear, "BC_CLEAR", 0, 0, 0x20000000, 0xFFFFFFFF⟩ (by decide) rfl rfl (fun _ => rfl)

theorem bcSet (ctx : Nat) (value : Word) : Statement (.bcSet ctx value) := by
  refine of_row ⟨.bcSet, "BC_SET", 1, 0, 0x21000000, 0xFFFF0000⟩ (by decide) rfl rfl fun h => ?_
  simp only [wellFormed, decide_eq_true_eq] at h
  have hq : (0x21 * 2 ^ 24 + 0 * 2 ^ 20 + false.toNat * 2 ^ 16 + ctx) / 2 ^ 16 = 0x2100 := by simp; omega
  exact match_of_high (m := 0xFFFF) (p := 0x2100) 16 (by simp; omega) rfl rfl (by rw [hq]; rfl)

theorem bcGet (ctx : Nat) : Statement (.bcGet ctx) := by
  refine of_row ⟨.bcGet, "BC_GET", 0, 1, 0x22000000, 0xFFFF0000⟩ (by decide) rfl rfl fun h => ?_
  simp only [wellFormed, decide_eq_true_eq] at h
  have hq : (0x22 * 2 ^ 24 + 0 * 2 ^ 20 + false.toNat * 2 ^ 16 + ctx) / 2 ^ 16 = 0x2200 := by simp; omega
  exact match_of_high (m := 0xFFFF) (p := 0x2200) 16 (by simp; omega) rfl rfl (by rw [hq]; rfl)

theorem bcPut (t : Nat) (bit : Bool) (ctx : Nat) : Statement (.bcPut t bit ctx) := by
  refine of_row ⟨.bcPut, "BC_PUT", 0, 0, 0x23000000, 0xFF0E0000⟩ (by decide) rfl rfl fun h => ?_
  simp only [wellFormed, Bool.and_eq_true, decide_eq_true_eq] at h
  have hb := bit.toNat_le
  have hq : (0x23 * 2 ^ 24 + t * 2 ^ 20 + bit.toNat * 2 ^ 16 + ctx) / 2 ^ 17 = 0x1180 + 8 * t := by omega
  refine match_of_high (m := 0x7F87) (p := 0x1180) 17 (by omega) rfl rfl ?_
  obtain ⟨ht, -⟩ := h
  rw [hq]
  clear hq
  interval_cases t <;> rfl

theorem tblBuild (t cut : Nat) (alpha : Word) : Statement (.tblBuild t cut alpha) := by
  refine of_row ⟨.tblBuild, "TBL_BUILD", 1, 0, 0x24000000, 0xFF0FFFF0⟩ (by decide) rfl rfl fun h => ?_
  simp only [wellFormed, Bool.and_eq_true, decide_eq_true_eq] at h
  have hq : (0x24 * 2 ^ 24 + t * 2 ^ 20 + cut) / 2 ^ 4 = 0x2400000 + 0x10000 * t := by omega
  refine match_of_high (m := 0xFF0FFFF) (p := 0x2400000) 4 (by omega) rfl rfl ?_
  obtain ⟨ht, -⟩ := h
  rw [hq]
  clear hq
  interval_cases t <;> rfl

/-- The masks of TBL_WRITE and TBL_READ leave TSEL, B and S free. -/
theorem formatFE_match {opc t st : Nat} {b : Bool} {mask pattern : Word} (p : Nat) (ho : opc < 256) (ht : t < 16)
    (hs : st < 4096) (hm : mask.toNat = 0x7F87F * 2 ^ 13) (hp : pattern.toNat = p * 2 ^ 13)
    (h : ∀ t < 16, opc * 0x800 + 0x80 * t &&& 0x7F87F = p) : formatFE opc t b st &&& mask = pattern := by
  have hb := b.toNat_le
  have hq : (opc * 2 ^ 24 + t * 2 ^ 20 + b.toNat * 2 ^ 12 + st) / 2 ^ 13 = opc * 0x800 + 0x80 * t := by omega
  exact match_of_high 13 (by omega) hm hp (by rw [hq]; exact h t ht)

theorem tblWrite (t : Nat) (b : Bool) (st : Nat) (value : Word) : Statement (.tblWrite t b st value) := by
  refine of_row ⟨.tblWrite, "TBL_WRITE", 1, 0, 0x25000000, 0xFF0FE000⟩ (by decide) rfl rfl fun h => ?_
  simp only [wellFormed, Bool.and_eq_true, decide_eq_true_eq] at h
  exact formatFE_match 0x12800 (by decide) h.1 h.2 rfl rfl (by decide)

theorem tblRead (t : Nat) (b : Bool) (st : Nat) : Statement (.tblRead t b st) := by
  refine of_row ⟨.tblRead, "TBL_READ", 0, 1, 0x26000000, 0xFF0FE000⟩ (by decide) rfl rfl fun h => ?_
  simp only [wellFormed, Bool.and_eq_true, decide_eq_true_eq] at h
  exact formatFE_match 0x13000 (by decide) h.1 h.2 rfl rfl (by decide)

theorem encCtx (t : Nat) (bit : Bool) (ctx : Nat) : Statement (.encCtx t bit ctx) := by
  refine of_row ⟨.encCtx, "ENC_CTX", 0, 0, 0x30000000, 0xFF0E0000⟩ (by decide) rfl rfl fun h => ?_
  simp only [wellFormed, Bool.and_eq_true, decide_eq_true_eq] at h
  have hb := bit.toNat_le
  have hq : (0x30 * 2 ^ 24 + t * 2 ^ 20 + bit.toNat * 2 ^ 16 + ctx) / 2 ^ 17 = 0x1800 + 8 * t := by omega
  refine match_of_high (m := 0x7F87) (p := 0x1800) 17 (by omega) rfl rfl ?_
  obtain ⟨ht, -⟩ := h
  rw [hq]
  clear hq
  interval_cases t <;> rfl

theorem decCtx (t ctx : Nat) : Statement (.decCtx t ctx) := by
  refine of_row ⟨.decCtx, "DEC_CTX", 0, 1, 0x31000000, 0xFF0F0000⟩ (by decide) rfl rfl fun h => ?_
  simp only [wellFormed, Bool.and_eq_true, decide_eq_true_eq] at h
  have hq : (0x31 * 2 ^ 24 + t * 2 ^ 20 + false.toNat * 2 ^ 16 + ctx) / 2 ^ 16 = 0x3100 + 0x10 * t := by simp; omega
  refine match_of_high (m := 0xFF0F) (p := 0x3100) 16 (by simp; omega) rfl rfl ?_
  obtain ⟨ht, -⟩ := h
  rw [hq]
  clear hq
  interval_cases t <;> rfl

theorem yccInit (np : Nat) (min0 max0 min1 max1 min2 max2 : Word) :
    Statement (.yccInit np min0 max0 min1 max1 min2 max2) := by
  refine of_row ⟨.yccInit, "YCC_INIT", 6, 1, 0x40000000, 0xFFFFFF00⟩ (by decide) rfl rfl fun h => ?_
  simp only [wellFormed, decide_eq_true_eq] at h
  have hq : (0x40 * 2 ^ 24 + np) / 2 ^ 8 = 0x400000 := by omega
  exact match_of_high (m := 0xFFFFFF) (p := 0x400000) 8 (by omega) rfl rfl (by rw [hq]; rfl)

theorem yccFwd (r g b : Word) : Statement (.yccFwd r g b) :=
  of_row ⟨.yccFwd, "YCC_FWD", 3, 3, 0x41000000, 0xFFFFFFFF⟩ (by decide) rfl rfl (fun _ => show formatF0 0x41 &&& 0xFFFFFFFF = (0x41000000 : Word) by decide)

theorem yccInv (y co cg : Word) : Statement (.yccInv y co cg) :=
  of_row ⟨.yccInv, "YCC_INV", 3, 3, 0x42000000, 0xFFFFFFFF⟩ (by decide) rfl rfl (fun _ => show formatF0 0x42 &&& 0xFFFFFFFF = (0x42000000 : Word) by decide)

theorem yccRangeY : Statement .yccRangeY :=
  of_row ⟨.yccRangeY, "YCC_RANGE_Y", 0, 2, 0x43000000, 0xFFFFFFFF⟩ (by decide) rfl rfl (fun _ => rfl)

theorem yccRangeCo (y : Word) : Statement (.yccRangeCo y) :=
  of_row ⟨.yccRangeCo, "YCC_RANGE_CO", 1, 2, 0x44000000, 0xFFFFFFFF⟩ (by decide) rfl rfl (fun _ => show formatF0 0x44 &&& 0xFFFFFFFF = (0x44000000 : Word) by decide)

theorem yccRangeCg (y co : Word) : Statement (.yccRangeCg y co) :=
  of_row ⟨.yccRangeCg, "YCC_RANGE_CG", 2, 2, 0x45000000, 0xFFFFFFFF⟩ (by decide) rfl rfl (fun _ => show formatF0 0x45 &&& 0xFFFFFFFF = (0x45000000 : Word) by decide)

end Sys2Proof.Laws.SelectsOwnRow
end

