-- ==== Sys2Proof/Tests/Slice0.lean ====
section
/-! SUPPORT. The model's own tests: what the checks refuse, words written out from 30_encoding, single steps from 95_test_vectors, and a witness for the hypotheses of every statement. -/

open Sys2Proof Sys2Proof.Machine

namespace Sys2Proof.Tests

/-! ### WellFormed refuses each field out of its range (30_encoding R108) -/

theorem test_wf_csr : wellFormed (.regRead 256) = false ∧ wellFormed (.regWrite 256 0) = false := by decide
theorem test_wf_p : wellFormed (.rcEncP true 4096) = false ∧ wellFormed (.rcDecP 4096) = false := by decide
theorem test_wf_ctx : wellFormed (.bcSet 65536 1) = false ∧ wellFormed (.bcGet 65536) = false := by decide
theorem test_wf_bcPut : wellFormed (.bcPut 16 true 0) = false ∧ wellFormed (.bcPut 0 true 65536) = false := by decide
theorem test_wf_tblBuild : wellFormed (.tblBuild 16 1 1) = false ∧ wellFormed (.tblBuild 0 16 1) = false := by decide
theorem test_wf_tblWrite : wellFormed (.tblWrite 16 true 0 0) = false ∧ wellFormed (.tblWrite 0 true 4096 0) = false := by
  decide
theorem test_wf_tblRead : wellFormed (.tblRead 16 true 0) = false ∧ wellFormed (.tblRead 0 true 4096) = false := by decide
theorem test_wf_encCtx : wellFormed (.encCtx 16 true 0) = false ∧ wellFormed (.encCtx 0 true 65536) = false := by decide
theorem test_wf_decCtx : wellFormed (.decCtx 16 0) = false ∧ wellFormed (.decCtx 0 65536) = false := by decide
theorem test_wf_yccInit : wellFormed (.yccInit 256 0 1 0 1 0 1) = false := by decide

/-! ### One word per command, written out from the formats of 30_encoding R94 to R101 -/

/-- F0, opcode 0x00. -/
theorem test_dec_nop : decode [0x00000000] = .command .nop [] := by decide
/-- FR, opcode 0x01, CSR 0x2F. -/
theorem test_dec_regRead : decode [0x0100002F] = .command (.regRead 47) [] := by decide
/-- FR, opcode 0x02, CSR 0x03, and one argument. -/
theorem test_dec_regWrite : decode [0x02000003, 1, 0] = .command (.regWrite 3 1) [0] := by decide
theorem test_dec_rcStartEnc : decode [0x10000000] = .command .rcStartEnc [] := by decide
theorem test_dec_rcStartDec : decode [0x11000000] = .command .rcStartDec [] := by decide
theorem test_dec_rcFlush : decode [0x12000000] = .command .rcFlush [] := by decide
theorem test_dec_rcAbort : decode [0x13000000] = .command .rcAbort [] := by decide
/-- FP, opcode 0x14, BIT 1 in bit 12, P 100 in bits 11:0 (30_encoding R109). -/
theorem test_dec_rcEncP : decode [0x14001064] = .command (.rcEncP true 100) [] := by decide
/-- FP, opcode 0x15, P 0xFFF. -/
theorem test_dec_rcDecP : decode [0x15000FFF] = .command (.rcDecP 4095) [] := by decide
theorem test_dec_bcClear : decode [0x20000000] = .command .bcClear [] := by decide
/-- FC, opcode 0x21, CTX 0xFFFF, and one argument. -/
theorem test_dec_bcSet : decode [0x2100FFFF, 0x123] = .command (.bcSet 65535 0x123) [] := by decide
/-- FC, opcode 0x22, CTX 4095. -/
theorem test_dec_bcGet : decode [0x22000FFF] = .command (.bcGet 4095) [] := by decide
/-- FC, opcode 0x23, TSEL 15 in bits 23:20, BIT 1 in bit 16, CTX 5. -/
theorem test_dec_bcPut : decode [0x23F10005] = .command (.bcPut 15 true 5) [] := by decide
/-- FB, opcode 0x24, TSEL 1, CUT 4 in bits 3:0, and alpha. -/
theorem test_dec_tblBuild : decode [0x24100004, 0x0CCCCCCC] = .command (.tblBuild 1 4 214748364) [] := by decide
/-- FE, opcode 0x25, TSEL 1, B 1 in bit 12, S 0x800, and the value. -/
theorem test_dec_tblWrite : decode [0x25101800, 0x834] = .command (.tblWrite 1 true 2048 2100) [] := by decide
/-- FE, opcode 0x26, TSEL 1, B 0, S 3. -/
theorem test_dec_tblRead : decode [0x26100003] = .command (.tblRead 1 false 3) [] := by decide
/-- FC, opcode 0x30, TSEL 1, BIT 1, CTX 5 (30_encoding R109). -/
theorem test_dec_encCtx : decode [0x30110005] = .command (.encCtx 1 true 5) [] := by decide
/-- FC, opcode 0x31, TSEL 2, CTX 3. -/
theorem test_dec_decCtx : decode [0x31200003] = .command (.decCtx 2 3) [] := by decide
/-- FY, opcode 0x40, NP 3, and six arguments in the order min0, max0, min1, max1, min2, max2. -/
theorem test_dec_yccInit :
    decode [0x40000003, 1, 2, 3, 4, 5, 6, 7] = .command (.yccInit 3 1 2 3 4 5 6) [7] := by decide
theorem test_dec_yccFwd : decode [0x41000000, 255, 128, 64] = .command (.yccFwd 255 128 64) [] := by decide
theorem test_dec_yccInv : decode [0x42000000, 143, 190, 30] = .command (.yccInv 143 190 30) [] := by decide
theorem test_dec_yccRangeY : decode [0x43000000] = .command .yccRangeY [] := by decide
theorem test_dec_yccRangeCo : decode [0x44000000, 143] = .command (.yccRangeCo 143) [] := by decide
theorem test_dec_yccRangeCg : decode [0x45000000, 143, 190] = .command (.yccRangeCg 143 190) [] := by decide

/-- The illegal words of 95_test_vectors 6.2 with a reserved or extra-zero field set. -/
theorem test_dec_nonzero_fields :
    [0x00000001, 0x14002000, 0x15001000, 0x21100000, 0x23020000, 0x31010000, 0x24000012, 0x25002000].all
      (fun w => decide (decode [w] = .illegal w .nonzeroReservedField [])) = true := by decide

/-- Its illegal words with a reserved opcode; the word after one is not an argument. -/
theorem test_dec_reserved_opcodes :
    decode [0x03000000, 0] = .illegal 0x03000000 .reservedOpcode [0] ∧
    decode [0xFF000000] = .illegal 0xFF000000 .reservedOpcode [] := by decide

/-- A command whose arguments have not all arrived (20_memory R71). -/
theorem test_dec_waits : decode [0x41000000, 255, 128] = .wait := by decide

/-- The opcode table's numbering: bit 0 is the least significant bit of the first word, and an argument word of the
table's bits follows at bit 32. -/
theorem test_decodeTableWord :
    decodeTableWord 64 0x0D79435E24000002 = some (.tblBuild 0 2 226050910) ∧
    decodeTableWord 32 0x40000003 = some (.yccInit 3 0 0 0 0 0 0) ∧ decodeTableWord 32 0x14002000 = none := by decide

/-- The words placed by `withFetchWord` are the next command. -/
theorem test_withFetchWord : decode (State.reset.withFetchWord 32 0x14001064).cmd = .command (.rcEncP true 100)
    [0, 0, 0, 0, 0, 0] := by decide

/-- Two lines of assembler (30_encoding R106, R109). -/
theorem test_assemblerLine : assemblerLine (.tblBuild 0 2 226050910) = "TBL_BUILD 0, 2, 226050910" ∧
    assemblerLine .yccRangeY = "YCC_RANGE_Y" := by decide

/-! ### Small states -/

/-- The state a next outcome holds. -/
def nextOf (r : Result) : Option State :=
  match r with
  | .next t => some t
  | .fault _ => none
  | .refused _ => none

/-- One step of `s` with the words `ws` on the command port. -/
def ran (s : State) (ws : List Word) : Option State := nextOf (step { s with cmd := ws })

/-- An encoder session right after RC_START_ENC. -/
def enc0 : State := { State.reset with mode := .enc }
/-- The constructed start state of 95_test_vectors 2.4. -/
def encCarry : State :=
  { enc0 with rcLow := 0xFF8000, rcRange := 0x20000, rcDelayed := some 0x12, rcPending := 3 }
/-- The start state of the PENDING_OVERFLOW vector of 95_test_vectors 2.6. -/
def encFull : State := { encCarry with cfg := { Params.standard with pendW := 16 }, rcPending := 0xFFFF }
/-- A decoder session after RC_START_DEC on `80 FF FF`, with one byte left. -/
def dec0 : State := { State.reset with mode := .dec, rcLow := 0x80FFFF, bytesIn := 3, src := [0x5A] }
/-- The faulted state. -/
def stuck : State := { State.reset with faulted := true, cause := .modeError, faultInfo := 0x12000000 }
/-- Two entries of the table T0 (95_test_vectors 3.1), those of state 2048. -/
def entries : List (Nat × BitVec 16) := [(2048, 2156), (6144, 1940)]
/-- An attached transform with maxima 255, so par 64. -/
def ycc64 : State := { State.reset with attached := true, ycPar := 64, ycMax0 := 255, ycMax1 := 255, ycMax2 := 255 }
/-- An attached transform with maxima 3, so par 1. -/
def ycc1 : State := { State.reset with attached := true, ycPar := 1, ycMax0 := 3, ycMax1 := 3, ycMax2 := 3 }
/-- RC_START_DEC holding after one byte (95_test_vectors 2.6). -/
def heldStart : State := { State.reset with rcLow := 0x80, bytesIn := 1, hold := some ⟨0x11000000, .startDec 2⟩ }
/-- RC_DEC_P 1 holding with an interval of 0x1000. -/
def heldRefill : State :=
  { State.reset with mode := .dec, rcRange := 0x1000, hold := some ⟨0x15000001, .refill false none⟩ }

theorem standard_legal : Params.standard.Legal := by constructor <;> decide

/-- Reset meets the invariant's fields, checked one by one here; the statement itself is for the provers. -/
theorem small_inv (s : State) (h0 : s.cfg = Params.standard) (h1 : s.ctx = [] ∧ s.tbl = [] ∧ s.tblCut = [] ∧ s.tblAlpha = [])
    (h2 : s.ctrl.toNat < 2 ∧ s.rcPending.toNat < 2 ^ s.cfg.pendW)
    (h3 : (s.faulted = true ↔ s.cause ≠ .noFault) ∧ s.cause ≠ .faultedState) (h4 : s.faulted = false → s.faultInfo = 0)
    (h5 : s.attached = true →
      s.ycPar.toNat = max (max s.ycMax0.toNat s.ycMax1.toNat) s.ycMax2.toNat / 4 + 1 ∧
        max (max s.ycMax0.toNat s.ycMax1.toNat) s.ycMax2.toNat ≤ s.cfg.ycMaxV)
    (h6 : s.attached = false → s.ycPar = 0 ∧ s.ycMax0 = 0 ∧ s.ycMax1 = 0 ∧ s.ycMax2 = 0)
    (h7 : s.faulted = false → s.mode = .enc → encOk s) (h8 : s.faulted = false → s.hold = none → s.mode = .dec → decOk s)
    (h9 : ∀ h, s.hold = some h → s.faulted = false ∧ holdOk h s) : Inv s where
  cfg := h0 ▸ standard_legal
  ctx := by rw [h1.1]; exact ⟨⟨List.Pairwise.nil, by simp⟩, by simp⟩
  tbl := by rw [h1.2.1]; exact ⟨List.Pairwise.nil, by simp⟩
  tblCut := by rw [h1.2.2.1]; exact ⟨List.Pairwise.nil, by simp⟩
  tblAlpha := by rw [h1.2.2.2]; exact ⟨List.Pairwise.nil, by simp⟩
  ctrl := h2.1
  pending := h2.2
  fault := h3
  faultInfo := h4
  attached := h5
  detached := h6
  enc := h7
  dec := h8
  hold := h9

theorem nohold_inv (s : State) (h : s.hold = none) : ∀ k, s.hold = some k → s.faulted = false ∧ holdOk k s := by
  simp [h]

theorem enc0_inv : Inv enc0 := by
  apply small_inv <;> first | exact nohold_inv _ rfl | decide
theorem dec0_inv : Inv dec0 := by
  apply small_inv <;> first | exact nohold_inv _ rfl | decide
theorem stuck_inv : Inv stuck := by
  apply small_inv <;> first | exact nohold_inv _ rfl | decide
theorem ycc64_inv : Inv ycc64 := by
  apply small_inv <;> first | exact nohold_inv _ rfl | decide
theorem ycc1_inv : Inv ycc1 := by
  apply small_inv <;> first | exact nohold_inv _ rfl | decide
theorem heldStart_inv : Inv heldStart := by
  apply small_inv <;> first | decide | skip
  intro h hh
  cases hh
  exact ⟨rfl, rfl, by decide, by decide, rfl, rfl, by decide⟩
theorem heldRefill_inv : Inv heldRefill := by
  apply small_inv <;> first | decide | skip
  intro h hh
  cases hh
  exact ⟨rfl, rfl, by decide, by decide, by decide, by simp⟩

/-! ### Single steps, with the results of 95_test_vectors -/

/-- 95_test_vectors 6.1: NOP. -/
theorem test_nop : (ran State.reset [0x00000000]).map (fun t => (t.resp, statusWord t)) = some ([.ok []], 0) := by decide
/-- 95_test_vectors 6.1: ID after reset. -/
theorem test_regRead_id : (ran State.reset [0x01000000]).map (·.resp) = some [.ok [0x464C4946]] := by decide
/-- 95_test_vectors 6.1: TBL_CUT[2] does not exist with two tables. -/
theorem test_regRead_unmapped :
    (ran State.reset [0x01000012]).map (fun t => (t.resp, statusWord t)) = some ([.fault .badIndex], 0x504) := by decide
/-- 95_test_vectors 6.1: CTRL takes 0. -/
theorem test_regWrite : (ran State.reset [0x02000003, 0]).map (fun t => (t.resp, t.ctrl)) = some ([.ok []], 0) := by decide
/-- 95_test_vectors 6.1: STATUS is read-only. -/
theorem test_regWrite_readOnly :
    (ran State.reset [0x02000002, 0]).map (fun t => (t.resp, statusWord t)) = some ([.fault .readOnly], 0xB04) := by decide
/-- 95_test_vectors 2.2: the start state. -/
theorem test_rcStartEnc : (ran State.reset [0x10000000]).map (fun t => (t.mode, t.rcLow, t.rcRange, t.rcDelayed)) =
    some (.enc, 0, 0x1000000, none) := by decide
/-- 95_test_vectors 2.5: source `80 FF FF`. -/
theorem test_rcStartDec : (ran { State.reset with src := [0x80, 0xFF, 0xFF] } [0x11000000]).map
    (fun t => (t.resp, t.rcLow, t.rcRange, t.bytesIn)) = some ([.ok []], 0x80FFFF, 0x1000000, 3) := by decide
/-- 95_test_vectors 2.6: source `80 FF`, ended. -/
theorem test_rcStartDec_truncated : (ran { State.reset with src := [0x80, 0xFF], srcEof := true } [0x11000000]).map
    (fun t => (t.resp, statusWord t, t.bytesIn, t.rcLow)) = some ([.fault .streamTruncated], 0x204, 2, 0x80FF) := by decide
/-- 95_test_vectors 2.3: RC_START_ENC, RC_FLUSH writes `00 FF FF`. -/
theorem test_rcFlush : (ran enc0 [0x12000000]).map (fun t => (t.snk, t.mode, t.rcLow, t.rcRange, t.rcDelayed)) =
    some ([0x00, 0xFF, 0xFF], .idle, 0, 0xFFFF00, some 0) := by decide
/-- 95_test_vectors 2.6: RC_FLUSH after reset. -/
theorem test_rcFlush_idle : (ran State.reset [0x12000000]).map (fun t => (t.resp, statusWord t, t.faultInfo)) =
    some ([.fault .modeError], 0x304, 0x12000000) := by decide
/-- 95_test_vectors 2.6: RC_ABORT after reset. -/
theorem test_rcAbort : (ran State.reset [0x13000000]).map (fun t => (t.resp, statusWord t)) = some ([.ok []], 0) := by decide
/-- 95_test_vectors 2.4: the carry over four pending bytes. -/
theorem test_rcEncP_carry :
    (ran { encCarry with rcLow := 0x800000, rcRange := 0x1000000, rcPending := 4 } [0x14000001]).map
      (fun t => (t.snk, t.rcDelayed, t.rcPending, t.rcLow, t.rcRange)) =
    some ([0x13, 0, 0, 0, 0], some 0x7F, 0, 0xF00000, 0x100000) := by decide
/-- 95_test_vectors 2.6: the pending counter is full. -/
theorem test_rcEncP_overflow : (ran encFull [0x14001800]).map (fun t => (t.resp, statusWord t, t.rcLow, t.rcRange, t.snk)) =
    some ([.fault .pendingOverflow], 0xA05, 0xFF8000, 0x10000, []) := by decide
/-- 95_test_vectors 2.5: RC_DEC_P 2048 after RC_START_DEC on `80 FF FF`. -/
theorem test_rcDecP : (ran dec0 [0x15000800]).map (fun t => (t.resp, t.rcLow, t.rcRange, t.bytesIn)) =
    some ([.ok [0]], 0x00FFFF, 0x800000, 3) := by decide +kernel
/-- 95_test_vectors 2.6: RC_DEC_P 0. -/
theorem test_rcDecP_zero : (ran { dec0 with rcLow := 0 } [0x15000000]).map (fun t => (t.resp, statusWord t)) =
    some ([.fault .badChance], 0x406) := by decide
/-- 95_test_vectors 4: BC_CLEAR. -/
theorem test_bcClear : (ran { State.reset with ctx := [(7, 100)] } [0x20000000]).map (fun t => ctxRead t 7) = some 0x800 := by
  decide
/-- 95_test_vectors 4: BC_SET 3, 0x123. -/
theorem test_bcSet : (ran State.reset [0x21000003, 0x123]).map (fun t => (t.resp, ctxRead t 3)) = some ([.ok []], 0x123) := by
  decide
/-- 95_test_vectors 4: BC_SET 5, 4096. -/
theorem test_bcSet_badParam : (ran State.reset [0x21000005, 4096]).map (fun t => (statusWord t, ctxRead t 5)) =
    some (0x704, 0x800) := by decide
/-- 95_test_vectors 4: BC_GET 4095, the last context. -/
theorem test_bcGet : (ran State.reset [0x22000FFF]).map (·.resp) = some [.ok [0x800]] := by decide
/-- 95_test_vectors 4: BC_PUT 0, 1, 5 with T0. -/
theorem test_bcPut : (ran { State.reset with tbl := entries } [0x23010005]).map (fun t => (t.resp, ctxRead t 5)) =
    some ([.ok []], 1940) := by decide
/-- 95_test_vectors 4: BC_PUT 0, 0, 5 with no table. -/
theorem test_bcPut_unset : (ran State.reset [0x23000005]).map (fun t => (t.resp, statusWord t)) =
    some ([.fault .tableUnset], 0x604) := by decide
/-- 95_test_vectors 3.1: T0 at the states 2048 and 2, and the place it is built in. -/
theorem test_tblBuild : (ran State.reset [0x24000002, 0x0D79435E]).map
    (fun t => (tblEntry t 0 false 2048, tblEntry t 0 true 2048, tblEntry t 0 false 2, tblEntry t 1 false 2048, tblCutOf t 0)) =
    some (some 2156, some 1940, some 217, none, 2) := by decide +kernel
/-- 95_test_vectors 4: TBL_WRITE 1, 0, 2048, 2100. -/
theorem test_tblWrite : (ran { State.reset with tblCut := [(1, 4)] } [0x25100800, 0x834]).map
    (fun t => (tblEntry t 1 false 2048, tblCutOf t 1, tblAlphaOf t 1)) = some (some 2100, 0, 0) := by decide
/-- 95_test_vectors 4: TBL_READ 0, 1, 2048 with T0. -/
theorem test_tblRead : (ran { State.reset with tbl := entries } [0x26001800]).map (·.resp) = some [.ok [1940]] := by decide
/-- 95_test_vectors 4: TBL_READ 0, 0, 0 after reset. -/
theorem test_tblRead_unset : (ran State.reset [0x26000000]).map (·.resp) = some [.fault .tableUnset] := by decide
/-- 95_test_vectors 4: ENC_CTX 0, 0, 0 with T0. -/
theorem test_encCtx : (ran { enc0 with tbl := entries } [0x30000000]).map
    (fun t => (t.resp, t.rcLow, t.rcRange, ctxRead t 0)) = some ([.ok []], 0x800000, 0x800000, 2156) := by decide
/-- 95_test_vectors 4: BAD_INDEX comes before MODE_ERROR. -/
theorem test_encCtx_order : (ran State.reset [0x30204000]).map (·.resp) = some [.fault .badIndex] := by decide
/-- 95_test_vectors 4: DEC_CTX 0, 0 with T0. -/
theorem test_decCtx : (ran { dec0 with tbl := entries } [0x31000000]).map
    (fun t => (t.resp, t.rcLow, t.rcRange, ctxRead t 0)) = some ([.ok [0]], 0x00FFFF, 0x800000, 2156) := by decide +kernel
/-- 95_test_vectors 4: DEC_CTX in an encoder session. -/
theorem test_decCtx_mode : (ran { enc0 with tbl := entries } [0x31000000]).map (fun t => (t.resp, statusWord t)) =
    some ([.fault .modeError], 0x305) := by decide
/-- 95_test_vectors 5.1: maxima 2^26 - 1, 1, 1 give par 2^24. -/
theorem test_yccInit : (ran State.reset [0x40000003, 0, 67108863, 0, 1, 0, 1]).map (fun t => (t.resp, t.ycPar)) =
    some ([.ok [1]], 16777216) := by decide +kernel
/-- 95_test_vectors 5.1: a minimum of -1 is refused, and the transform detaches. -/
theorem test_yccInit_refused : (ran ycc64 [0x40000003, 0xFFFFFFFF, 255, 0, 255, 0, 255]).map
    (fun t => (t.resp, t.attached, t.ycPar)) = some ([.ok [0]], false, 0) := by decide +kernel
/-- 95_test_vectors 5.2: the source's example S2. -/
theorem test_yccFwd : (ran ycc64 [0x41000000, 255, 128, 64]).map (·.resp) = some [.ok [143, 190, 30]] := by decide
/-- 95_test_vectors 5.2: R above YC_MAX0. -/
theorem test_yccFwd_domain : (ran ycc1 [0x41000000, 4, 0, 0]).map (fun t => (t.resp, statusWord t)) =
    some ([.fault .yccDomain], 0x90C) := by decide
/-- 95_test_vectors 5.2: YCC_INV -5, 100, 100 with CLIP 1. -/
theorem test_yccInv_clip : (ran ycc64 [0x42000000, 0xFFFFFFFB, 100, 100]).map (·.resp) = some [.ok [97, 0, 0]] := by decide
/-- 95_test_vectors 5.2: the same with CLIP 0 answers (97, -55, -4). -/
theorem test_yccInv_exact : (ran { ycc64 with ctrl := 0 } [0x42000000, 0xFFFFFFFB, 100, 100]).map (·.resp) =
    some [.ok [97, 0xFFFFFFC9, 0xFFFFFFFC]] := by decide
/-- 95_test_vectors 5.3: par 64. -/
theorem test_yccRangeY : (ran ycc64 [0x43000000]).map (·.resp) = some [.ok [0, 255]] := by decide
/-- 95_test_vectors 5.3: the last y has one Co. -/
theorem test_yccRangeCo : (ran ycc64 [0x44000000, 255]).map (·.resp) = some [.ok [0xFFFFFFFF, 0xFFFFFFFF]] := by decide
/-- 95_test_vectors 5.3: y 256 is outside. -/
theorem test_yccRangeCo_domain : (ran ycc64 [0x44000000, 256]).map (·.resp) = some [.fault .yccDomain] := by decide
/-- 95_test_vectors 5.3: (-98, 31). -/
theorem test_yccRangeCg : (ran ycc64 [0x45000000, 143, 190]).map (·.resp) = some [.ok [0xFFFFFF9E, 31]] := by decide
/-- 95_test_vectors 5.3: the sentinel (512, -512). -/
theorem test_yccRangeCg_sentinel : (ran ycc64 [0x45000000, 0, 5]).map (·.resp) = some [.ok [512, 0xFFFFFE00]] := by decide
/-- 95_test_vectors 2.6: the held RC_START_DEC completes when `FF FF` arrives. -/
theorem test_resume : (nextOf (step (hostFeed [0xFF, 0xFF] heldStart))).map (fun t => (t.resp, t.rcLow, t.mode, t.hold)) =
    some ([.ok []], 0x80FFFF, .dec, none) := by decide
/-- 60_exceptions R273: a command in the faulted state. -/
theorem test_faulted : (ran stuck [0x13000000]).map (fun t => (t.resp, statusWord t)) =
    some ([.fault .faultedState], 0x304) := by decide

/-! ### Witnesses: states and operands that meet all the hypotheses of each statement, at the bounds of its clauses -/

/-- Some answer of a command is a next state with this property. -/
abbrev goes (i : Instr) (s : State) (P : State → Prop) : Prop := ∃ t, exec i s = .next t ∧ P t

theorem wit_DecodeOfEncodeIsTheCommand :
    wellFormed (.encCtx 15 true 65535) = true ∧ wellFormed (.tblBuild 15 15 0xFFFFFFFF) = true ∧
    wellFormed (.tblWrite 15 true 4095 0) = true ∧ wellFormed (.yccInit 255 1 2 3 4 5 6) = true ∧
    wellFormed (.regRead 255) = true ∧ wellFormed (.rcEncP false 4095) = true := by decide
theorem wit_DecodedWordsAreTheEncoding : decode [0x30FFFFFF] = .illegal 0x30FFFFFF .nonzeroReservedField [] ∧
    decode [0x30F1FFFF, 9] = .command (.encCtx 15 true 65535) [9] := by decide
theorem wit_StepRunsTheDecodedCommand :
    State.reset.hold = none ∧ decode (hostSend [0x22000000, 7] State.reset).cmd = .command (.bcGet 0) [7] := by decide
theorem wit_StepFaultsAnIllegalWord : (∀ s ∈ [State.reset, stuck], s.hold = none ∧
      decode (hostSend [0x14002000, 7] s).cmd = .illegal 0x14002000 .nonzeroReservedField [7]) ∧
    State.reset.faulted = false ∧ stuck.faulted = true := by decide
theorem wit_StepWaitsForAllWords : State.reset.hold = none ∧ State.reset.cmd = [] ∧
    (∃ w ws r, (hostSend [0x41000000, 1, 2] State.reset).cmd = w :: ws ∧ selectRow w = some r ∧ ws.length < r.nargs) :=
  ⟨rfl, rfl, _, _, _, rfl, rfl, by decide⟩
theorem wit_StepHoldsWithoutBytes : (∀ s ∈ [heldStart, heldRefill], s.src = [] ∧ s.srcEof = false ∧ s.hold ≠ none) ∧
    Inv heldStart ∧ Inv heldRefill := ⟨by decide, heldStart_inv, heldRefill_inv⟩
theorem wit_ResetLeavesTheSpecifiedValues : State.reset.cfg.ntab ≤ 16 ∧ (hostReset stuck).cfg.ntab ≤ 16 ∧
    (hostReset stuck).faulted = false ∧ (hostReset heldRefill).hold = none := by decide
theorem wit_HeldCommandContinuesFromTheSamePoint :
    State.reset.hold = none ∧ State.reset.srcEof = false ∧ goes .rcStartDec State.reset (fun t => t.hold ≠ none) :=
  ⟨rfl, rfl, _, rfl, by decide⟩
theorem wit_StepUsesPortsInOrder : ∃ t, step State.reset = .next t := ⟨_, rfl⟩
theorem wit_StepKeepsTheInvariant : Inv enc0 ∧ Inv dec0 ∧ Inv stuck ∧ Inv ycc64 ∧ Inv heldStart ∧ Inv heldRefill ∧
    (∀ s ∈ [enc0, dec0, stuck, ycc64], (ran s [0x00000000]).isSome = true) :=
  ⟨enc0_inv, dec0_inv, stuck_inv, ycc64_inv, heldStart_inv, heldRefill_inv, by decide⟩
theorem wit_HostActionsKeepTheInvariant : Inv heldRefill := heldRefill_inv
theorem wit_StepAlwaysGoesOn : Inv { enc0 with cmd := [0x14000001] } := by
  apply small_inv <;> first | exact nohold_inv _ rfl | decide

theorem wit_FaultedStateIsQuiescent : stuck.faulted = true ∧ stuck.hold = none ∧ ∃ t, step stuck = .next t :=
  ⟨rfl, rfl, _, rfl⟩
theorem wit_FaultedStateRefusesCommands : stuck.faulted = true ∧ runsWhileFaulted .rcAbort = false := by decide
theorem wit_FaultsComeBeforeAnyEffect : State.reset.faulted = false ∧
    goes .rcFlush State.reset (fun t => answered State.reset t (.fault .modeError)) := ⟨rfl, _, rfl, rfl⟩
theorem wit_FirstFaultIsRecorded : State.reset.faulted = false ∧ goes .rcFlush State.reset (fun t => t.faulted = true) ∧
    goes .rcAbort State.reset (fun t => t.faulted = false) := ⟨rfl, ⟨_, rfl, rfl⟩, ⟨_, rfl, rfl⟩⟩
theorem wit_EveryCommandAnswersOnce : State.reset.hold = none ∧ goes .rcAbort State.reset (fun t => t.hold = none) ∧
    goes .rcStartDec State.reset (fun t => t.hold ≠ none) := ⟨rfl, ⟨_, rfl, rfl⟩, ⟨_, rfl, by decide⟩⟩
theorem wit_OnlyNamedCommandsWriteState : goes .nop State.reset (fun _ =>
    writesMode .nop = false ∧ writesColour .nop = false ∧ writesCtrl .nop = false ∧ writesInterval .nop = false ∧
    writesCarry .nop = false ∧ writesSink .nop = false ∧ readsSource .nop = false ∧ writesCtx .nop = false ∧
    writesTbl .nop = false) := ⟨_, rfl, by decide⟩

theorem wit_RegReadAnswersEachRegister : State.reset.cfg.ntab ≤ 16 ∧ 1 < State.reset.cfg.ntab := by decide
theorem wit_RegReadOfUnmappedFaults : State.reset.cfg.ntab ≤ 16 ∧ State.reset.faulted = false ∧ stuck.faulted = true ∧
    (∀ n ∈ [0x0F, 0x12, 0x1F, 0x22, 0xFF], n = 0x0F ∨ (0x10 + State.reset.cfg.ntab ≤ n ∧ n < 0x20) ∨
      0x20 + State.reset.cfg.ntab ≤ n) := by decide
theorem wit_RegisterWordsHaveTheirFields : State.reset.cfg.Legal ∧ State.reset.rcDelayed = none ∧
    encCarry.rcDelayed = some 0x12 := ⟨standard_legal, rfl, rfl⟩
theorem wit_RegWriteSetsCtrl : State.reset.faulted = false ∧ (0 : Word).toNat < 2 ∧ (1 : Word).toNat < 2 := by decide
theorem wit_RegWriteFaults : State.reset.faulted = false ∧ csrRead State.reset 0x0F = none ∧ csrRead State.reset 0x22 = none ∧
    csrRead State.reset 0x02 ≠ none ∧ csrRead State.reset 0x21 ≠ none ∧ 2 ≤ (2 : Word).toNat := by decide

theorem wit_ChanceLeavesBothIntervalsWide : (∀ p ∈ [1, 4095], 1 ≤ p ∧ p ≤ 4095) ∧
    (∀ range ∈ [2 ^ 16 + 1, 2 ^ 24], 2 ^ 16 < range ∧ range ≤ 2 ^ 24) ∧ rangeOk enc0 ∧
    rangeOk { dec0 with rcRange := 0x10001 } := by decide
theorem wit_ChanceIsTheRoundedProduct : (1 ≤ 4095 ∧ 4095 ≤ 4095) ∧ 2 ^ 16 < 2 ^ 24 ∧ 2 ^ 24 ≤ 2 ^ 24 := by decide
theorem wit_SessionsOpenAndClose : State.reset.faulted = false ∧ enc0.faulted = false := by decide
theorem wit_RcStartDecFillsTheWindow : dec0.faulted = false ∧
    (hostFeed [1, 2, 3] dec0).src = 0x5A :: 1 :: 2 :: [3] := by decide
theorem wit_RcStartDecOnAShortSource : (∀ s ∈ [State.reset, hostFeed [1, 2] State.reset], s.faulted = false ∧
    s.src.length < 3 ∧ s.srcEof = false) ∧ (hostSetEof (hostFeed [1, 2] State.reset)).srcEof = true := by decide
/-- Sessions with room, and one with a full counter whose carry is decided. -/
theorem wit_RcEncPCodesTheBit : (∀ s ∈ [enc0, encCarry, { encFull with rcLow := 0 }], s.faulted = false ∧ s.mode = .enc ∧
      encOk s ∧ 1 ≤ s.cfg.pendW ∧ s.cfg.pendW ≤ 32 ∧ s.rcPending.toNat < 2 ^ s.cfg.pendW ∧
      (∀ p ∈ [1, 4095], ∀ j ≤ 1, ¬ overflowsAt s (bitLow s p true) (bitRange s p true) j)) ∧
    (1 ≤ 4095 ∧ 4095 ≤ 4095) := by decide +kernel
theorem wit_EncRenormIterationByBranch : enc0.rcDelayed = none ∧
    (encCarry.rcDelayed = some 0x12 ∧ 2 ^ 24 ≤ encCarry.rcLow.toNat + encCarry.rcRange.toNat ∧
      encCarry.rcLow.toNat < 2 ^ 24) ∧
    (0 : Word).toNat + (0x10000 : Word).toNat < 2 ^ 24 ∧ 2 ^ 24 ≤ (0x17FF000 : Word).toNat := by decide
/-- The state that the carry vector of 95_test_vectors 2.4 hands to EncRenorm. -/
theorem wit_CarriesNeverWrap : (1 ≤ 0x1000 ∧ 0x1000 ≤ 2 ^ 16 ∧ 0x17FF000 + 0x1000 ≤ 2 ^ 25 ∧ 2 ^ 24 ≤ 0x17FF000) ∧
    (1 ≤ 2 ^ 16 ∧ 2 ^ 16 ≤ 2 ^ 16 ∧ 0xFF0000 + 2 ^ 16 ≤ 2 ^ 24 ∧ 2 ^ 24 ≤ 0xFF0000 + 2 ^ 16 ∧ 0xFF0000 < 2 ^ 24) := by decide
/-- A counter one below full, and an interval whose first two scalings by RC_ENC_P 0, 1 are both undecided. -/
def encNear : State := { encFull with rcPending := 0xFFFE, rcRange := 0x10001, rcLow := 0xFF0007 }
/-- The same for the first two shifts of RC_FLUSH. -/
def flushNear : State := { encNear with rcLow := 0xFEFF02 }
/-- 95_test_vectors 2.6 in the first scaling, a second scaling, and both for RC_FLUSH; ENC_CTX on the entries of T0. -/
theorem wit_RcEncPFaultsOnAFullPendingCounter :
    (∀ s ∈ [encFull, encNear, flushNear], s.faulted = false ∧ s.mode = .enc ∧ encOk s ∧ 1 ≤ s.cfg.pendW ∧ s.cfg.pendW ≤ 32) ∧
    overflowsAt encFull (bitLow encFull 2048 true) (bitRange encFull 2048 true) 0 ∧
    overflowsAt encNear (bitLow encNear 1 false) (bitRange encNear 1 false) 1 ∧
    flushOverflowsAt { flushNear with rcPending := 0xFFFF } 0 ∧ flushOverflowsAt flushNear 1 := by decide +kernel
theorem wit_RcEncPFaults_encCtx :
    (ran { encFull with tbl := entries } [0x30010000]).map (fun t => (t.resp, t.rcRange, t.ctx, t.faultInfo)) =
      some ([.fault .pendingOverflow], 0x10000, [], 0x30010000) := by decide +kernel
theorem wit_RcFlushEndsTheSession : ∀ s ∈ [enc0, encCarry, { encFull with rcLow := 0 }], s.faulted = false ∧
    s.mode = .enc ∧ encOk s ∧ 1 ≤ s.cfg.pendW ∧ s.cfg.pendW ≤ 32 ∧ s.rcPending.toNat < 2 ^ s.cfg.pendW ∧
    ∀ j ≤ 1, ¬ flushOverflowsAt s j := by decide +kernel
/-- Both bits of a decode: the top of the interval with no byte to read, and the top with one. -/
theorem wit_RcDecPDecodesTheBit : dec0.faulted = false ∧ dec0.mode = .dec ∧ dec0.hold = none ∧ decOk dec0 ∧
    (dec0.rcRange.toNat - chance 2048 dec0.rcRange.toNat ≤ dec0.rcLow.toNat ∧
      shiftsFor (chance 2048 dec0.rcRange.toNat) ≤ dec0.src.length) ∧
    (¬ dec0.rcRange.toNat - chance 1 dec0.rcRange.toNat ≤ dec0.rcLow.toNat ∧
      shiftsFor (dec0.rcRange.toNat - chance 4095 dec0.rcRange.toNat) ≤ dec0.src.length) := by decide +kernel
theorem wit_RcDecPOnAShortSource : (∀ e ∈ [true, false],
    let s : State := { dec0 with src := [], srcEof := e, rcLow := 0 }
    s.faulted = false ∧ s.mode = .dec ∧ s.hold = none ∧ decOk s ∧
      ¬ s.rcRange.toNat - chance 4095 s.rcRange.toNat ≤ s.rcLow.toNat ∧
      s.src.length < shiftsFor (s.rcRange.toNat - chance 4095 s.rcRange.toNat)) := by decide +kernel
theorem wit_CodingCommandsNeedTheirSession : State.reset.faulted = false ∧ State.reset.mode ≠ .enc ∧
    State.reset.mode ≠ .dec ∧ enc0.mode = .enc ∧ dec0.mode = .dec ∧ 1 < State.reset.cfg.ntab ∧
    4095 < State.reset.cfg.nctx := by decide
/-- The decoder's start for the stream of `RC_START_ENC; RC_ENC_P 0, 2048; RC_FLUSH` (95_test_vectors 2.3). -/
def decStart : State := { State.reset with src := [0x80, 0xFF, 0xFF], srcEof := true }
theorem decStart_inv : Inv decStart := by
  apply small_inv <;> first | exact nohold_inv _ rfl | decide
/-- A session of one coded bit: the stream RC_FLUSH leaves is the source the decoder starts on (95_test_vectors 2.3). -/
theorem wit_DecoderReturnsTheEncodedBits_run :
    (nextOf (execAll [.rcStartEnc, .rcEncP false 2048, .rcFlush] ycc1)).map (fun u => (u.faulted, u.snk)) =
      some (false, decStart.src) := by decide +kernel
theorem wit_DecoderReturnsTheEncodedBits : (Inv ycc1 ∧ Inv decStart) ∧ ycc1.snk = [] ∧
    wellFormed (CodedBit.explicit 2048 false).encoder = true ∧ decStart.faulted = false ∧ decStart.hold = none ∧
    decStart.cfg = ycc1.cfg ∧ decStart.ctx = ycc1.ctx ∧ decStart.tbl = ycc1.tbl ∧ decStart.srcEof = true :=
  ⟨⟨ycc1_inv, decStart_inv⟩, by decide⟩

theorem wit_BcClearResetsEveryContext : State.reset.faulted = false := by decide
theorem wit_BcSetWritesOneContext : State.reset.faulted = false ∧ (∀ c ∈ [0, 4095], c < State.reset.cfg.nctx) ∧
    (1 ≤ (1 : Word).toNat ∧ (4095 : Word).toNat ≤ 4095) := by decide
theorem wit_BcGetAnswersTheContext : State.reset.faulted = false ∧ 4095 < State.reset.cfg.nctx := by decide
/-- The states of BC_PUT, ENC_CTX and DEC_CTX with the entries of T0 for a context at its reset value. -/
theorem wit_updates : ∀ s ∈ [{ State.reset with tbl := entries }, { enc0 with tbl := entries }, { dec0 with tbl := entries }],
    s.faulted = false ∧ 0 < s.cfg.ntab ∧ 0 < s.cfg.nctx ∧ ctxRead s 0 ≠ 0 ∧ s.hold = none ∧
    ∀ b, tblEntry s 0 b (ctxRead s 0).toNat = some (if b then 1940 else 2156) := by decide
theorem wit_BcPutReplacesTheContext : ∀ b : Bool, 1 ≤ (if b then (1940 : BitVec 16) else 2156).toNat ∧
    (if b then (1940 : BitVec 16) else 2156).toNat ≤ 4095 := by decide
/-- A table whose entry for bit 0 of state 2048 is `v`. -/
def badRow (v : BitVec 16) : State := { State.reset with tbl := [(2048, v), (6144, 1940)] }
/-- Neither row set, and one row set outside the chances, in either session. -/
theorem wit_UpdatesCheckBothRows : (∀ s ∈ [State.reset, enc0, dec0], s.faulted = false ∧ 0 < s.cfg.ntab ∧ 0 < s.cfg.nctx ∧
      tblEntry s 0 false (ctxRead s 0).toNat = none) ∧ enc0.mode = .enc ∧ dec0.mode = .dec ∧
    (tblEntry (badRow 0) 0 false (ctxRead (badRow 0) 0).toNat = some 0 ∧ (0 : BitVec 16).toNat < 1 ∧
      tblEntry (badRow 0) 0 true (ctxRead (badRow 0) 0).toNat ≠ none) ∧
    (tblEntry (badRow 4096) 0 false (ctxRead (badRow 4096) 0).toNat = some 4096 ∧ 4095 < (4096 : BitVec 16).toNat ∧
      tblEntry (badRow 4096) 0 true (ctxRead (badRow 4096) 0).toNat ≠ none) := by decide
theorem wit_EncCtxCodesThenUpdates : enc0.mode = .enc ∧ encOk enc0 ∧ 1 ≤ enc0.cfg.pendW ∧ enc0.cfg.pendW ≤ 32 ∧
    enc0.rcPending.toNat < 2 ^ enc0.cfg.pendW ∧
    ∀ j ≤ 1, ¬ overflowsAt enc0 (bitLow enc0 2048 true) (bitRange enc0 2048 true) j := by decide +kernel
theorem wit_DecCtxDecodesThenUpdates : dec0.mode = .dec ∧ decOk dec0 ∧
    shiftsFor (if dec0.rcRange.toNat - chance 2048 dec0.rcRange.toNat ≤ dec0.rcLow.toNat
      then chance 2048 dec0.rcRange.toNat else dec0.rcRange.toNat - chance 2048 dec0.rcRange.toNat) ≤ dec0.src.length := by
  decide
/-- DEC_CTX on an interval just above MIN_RANGE, with the source ended and empty. -/
theorem wit_TruncatedDecCtxKeepsTheContexts :
    let s : State := { dec0 with tbl := entries, src := [], srcEof := true, rcRange := 0x10001, rcLow := 0 }
    s.faulted = false ∧ s.hold = none ∧ ctxRead s 0 ≠ 0 ∧
      (nextOf (exec (.decCtx 0 0) s)).map (·.resp) = some [.fault .streamTruncated] := by decide +kernel +kernel

theorem wit_TblBuildLoadsBothRows : State.reset.faulted = false ∧ State.reset.cfg.buildFn = .spec ∧ 1 < State.reset.cfg.ntab ∧
    (∀ cut ∈ [1, 15], 1 ≤ cut ∧ cut ≤ 15) ∧ (1 : Word) ≠ 0 ∧ (0xFFFFFFFF : Word) ≠ 0 := by decide
theorem wit_TblWriteStoresAndTblReadAnswers : State.reset.faulted = false ∧ 1 < State.reset.cfg.ntab ∧ 4095 < 4096 ∧
    (0xFFFF : Word).toNat ≤ 0xFFFF ∧ tblEntry { State.reset with tbl := entries } 0 true 2048 = some 1940 := by decide
theorem wit_ArrayCommandsCheckTheirOperands : State.reset.faulted = false ∧ State.reset.cfg.nctx ≤ 4096 ∧
    State.reset.cfg.ntab ≤ 2 ∧ 4095 < State.reset.cfg.nctx ∧ 1 < State.reset.cfg.ntab ∧ (0 : Word).toNat < 1 ∧
    4095 < (4096 : Word).toNat ∧ 0xFFFF < (0x10000 : Word).toNat ∧ tblEntry State.reset 1 true 4095 = none := by decide
/-- An entry of `[cut, 4096 - cut]` that the first pass writes, its last one before the clamp, and one it leaves alone. -/
theorem wit_DefaultTables_entries : (pathState 1 1 = 2048 ∧ pathState 1 2 ≤ 4096 - 2) ∧ pathState (2 ^ 32 - 1) 2 = 4096 ∧
    (∀ n < 2048, pathState 226050910 n = 2 → 4096 - 2 < pathState 226050910 (n + 1)) := by
  refine ⟨by decide +kernel, by decide +kernel, fun n _ h => ?_⟩
  cases n with
  | zero => cases h
  | succ n => have := pathState_ge 226050910 n; omega
theorem wit_DefaultTablesStayInsideTheClamps : ∀ cut ∈ [1, 15], ∀ alpha ∈ [1, 2 ^ 32 - 1], 1 ≤ cut ∧ cut ≤ 15 ∧ 1 ≤ alpha ∧
    alpha < 2 ^ 32 := by decide

/-- Planes accepted up to YC_MAXV, planes refused, and a maximum one above YC_MAXV. -/
theorem wit_YccInitAttachesOrRefuses : State.reset.faulted = false ∧ State.reset.cfg.ycMaxV ≤ 67108863 ∧
    (0 ≤ (0 : Word).toInt ∧ (0 : Word).toInt < (67108863 : Word).toInt ∧ (67108863 : Word).toNat ≤ State.reset.cfg.ycMaxV) ∧
    (0 ≤ (0 : Word).toInt ∧ (0 : Word).toInt < (67108864 : Word).toInt ∧
      State.reset.cfg.ycMaxV < (67108864 : Word).toNat) ∧ ¬ (7 : Word).toInt < (7 : Word).toInt := by decide
theorem wit_YccFwdTransformsThePixel : Inv ycc64 ∧ ycc64.faulted = false ∧ ycc64.attached = true ∧
    (0 ≤ (0 : Word).toInt ∧ (255 : Word).toInt ≤ ycc64.ycMax0.toNat ∧ (255 : Word).toInt ≤ ycc64.ycMax1.toNat ∧
      (255 : Word).toInt ≤ ycc64.ycMax2.toNat) := ⟨ycc64_inv, rfl, rfl, by decide⟩
/-- CLIP 1, and with CLIP 0 words whose inverse fits and words (95_test_vectors 5.2) whose inverse does not. -/
theorem wit_YccInvTransformsBack : Inv ycc64 ∧ ycc64.faulted = false ∧ ycc64.attached = true ∧ ycc64.ctrl = 1 ∧
    Inv { ycc64 with ctrl := 0 } ∧ (let v := yccInverse 143 190 30; fitsI32 v.x ∧ fitsI32 v.y ∧ fitsI32 v.z) ∧
    fitsI32 (yccInverse (-2 ^ 31) (-2 ^ 31) (-2 ^ 31)).x = false :=
  ⟨ycc64_inv, rfl, rfl, rfl, by apply small_inv <;> first | exact nohold_inv _ rfl | decide, by decide, by decide⟩
theorem wit_YccRangesAnswerTheOracle : Inv ycc64 ∧ ycc64.faulted = false ∧ ycc64.attached = true ∧
    (0 ≤ (0 : Word).toInt ∧ (255 : Word).toInt ≤ 4 * (ycc64.ycPar.toNat : Int) - 1) ∧
    (minCo 64 0 ≤ 2 ∧ 2 ≤ maxCo 64 0) ∧ ¬ 5 ≤ maxCo 64 0 := ⟨ycc64_inv, rfl, rfl, by decide⟩
theorem wit_YccCommandsCheckTheirOperands : State.reset.faulted = false ∧ State.reset.attached = false ∧
    ycc64.faulted = false ∧ ycc64.attached = true ∧ (ycc64.ycMax0.toNat : Int) < (256 : Word).toInt ∧
    (0xFFFFFFFF : Word).toInt < 0 ∧ 4 * (ycc64.ycPar.toNat : Int) - 1 < (256 : Word).toInt := by decide
theorem wit_RangeOracleIsExact : (1 : Int) ≤ 1 ∧ (0 : Int) ≤ 3 ∧ (3 : Int) ≤ 4 * 1 - 1 ∧ minCo 1 3 ≤ -1 ∧ -1 ≤ maxCo 1 3 := by
  decide

end Sys2Proof.Tests
end

/-! SUPPORT. What the decoder spells is well formed, how wide a coding step leaves the interval, and that EncRenorm then ends. -/

namespace Sys2Proof

/-! ### The decoder -/

/-- A field of a word is below two to its width (30_encoding R108). -/
theorem bitsOf_lt (w : Word) (hi lo : Nat) : bitsOf w hi lo < 2 ^ (hi + 1 - lo) := Nat.mod_lt _ (by positivity)

/-- What a word spells has every field within its range (30_encoding R108). -/
theorem assemble_wellFormed (op : Opcode) (w : Word) (ws : List Word) : wellFormed (assemble op w ws) = true := by
  have hp : fieldP w < 4096 := bitsOf_lt w 11 0
  have hctx : fieldCtx w < 65536 := bitsOf_lt w 15 0
  have htsel : fieldTsel w < 16 := bitsOf_lt w 23 20
  have hcut : fieldCut w < 16 := bitsOf_lt w 3 0
  have hlow : fieldLow8 w < 256 := bitsOf_lt w 7 0
  cases op <;> simp [assemble, wellFormed, hp, hctx, htsel, hcut, hlow]

/-- Words decode only to well-formed commands (30_encoding R102, R108). -/
theorem decode_wellFormed {ws rest : List Word} {i : Instr} (h : decode ws = .command i rest) : wellFormed i = true := by
  cases ws with
  | nil => cases h
  | cons w ws =>
    cases hr : selectRow w with
    | none => simp [decode, hr] at h
    | some r =>
      by_cases hn : ws.length < r.nargs
      · simp [decode, hr, hn] at h
      · rw [decode_of_select hr (Nat.not_lt.1 hn)] at h
        cases h
        exact assemble_wellFormed ..

end Sys2Proof

namespace Sys2Proof.Machine

/-! ### The encoder's interval -/

/-- Chance scaling leaves both bits at least 16 (40_range_coder R122): with `range = 4096 q + m`, it is at least `q p` and
at most `4095 q + m`. -/
theorem chance_bounds {p range : Nat} (hp : 1 ≤ p) (hp' : p ≤ 4095) (hr : 2 ^ 16 < range) :
    16 ≤ chance p range ∧ chance p range + 16 ≤ range := by
  have hlow : range / 4096 * 1 ≤ range / 4096 * p := Nat.mul_le_mul_left _ hp
  have hhigh : range / 4096 * p ≤ range / 4096 * 4095 := Nat.mul_le_mul_left _ hp'
  have hrest : range % 4096 * p ≤ range % 4096 * 4095 := Nat.mul_le_mul_left _ hp'
  unfold chance
  omega

/-- The width of either bit is at least 16 and within the interval (40_range_coder R122). -/
theorem bitRange_bounds {s : State} {p : Nat} (bit : Bool) (hp : 1 ≤ p) (hp' : p ≤ 4095) (hr : 2 ^ 16 < s.rcRange.toNat) :
    16 ≤ bitRange s p bit ∧ bitRange s p bit ≤ s.rcRange.toNat := by
  have hc := chance_bounds hp hp' hr
  unfold bitRange
  split <;> omega

/-- Coding a bit sets the interval of that bit (40_range_coder R124). -/
theorem encSplit_eq (p : Nat) (bit : Bool) (s : State) :
    encSplit p bit s = setInterval (bitLow s p bit) (bitRange s p bit) s := by
  unfold encSplit bitLow bitRange
  dsimp only
  split <;> rfl

/-- EncRenorm ends when its iterations, each a factor 256, are enough to pass MIN_RANGE (40_range_coder R125). -/
theorem encRenorm_ne_hang {n : Nat} {s : State} (h : minRange < s.rcRange.toNat * 256 ^ n) : encRenorm n s ≠ .hang := by
  induction n generalizing s with
  | zero => simp [encRenorm_wide (s := s) (by simpa using h)]
  | succ n ih =>
    by_cases hw : minRange < s.rcRange.toNat
    · simp [encRenorm_wide hw]
    · rw [encRenorm_narrow hw]
      cases hs : encShift s with
      | none => simp
      | some t =>
        have ht : t.rcRange.toNat = s.rcRange.toNat * 2 ^ 8 := by
          unfold minRange at hw
          rw [(encShift_interval hs).2, BitVec.toNat_ofNat, Nat.mod_eq_of_lt (by omega)]
        refine ih ?_
        rw [ht, Nat.mul_assoc]
        rwa [Nat.pow_succ'] at h

/-- The three iterations the model allows EncRenorm are enough for every RC_RANGE but 0 (log entry 9). -/
theorem encRenorm_three_ne_hang {s : State} (h : 0 < s.rcRange.toNat) : encRenorm 3 s ≠ .hang :=
  encRenorm_ne_hang (by unfold minRange; omega)

/-- EncodeBit ends from the interval of a session (40_range_coder R122, R125). -/
theorem encodeBit_ne_hang {s : State} {p : Nat} (bit : Bool) (hp : 1 ≤ p) (hp' : p ≤ 4095) (hr : 2 ^ 16 < s.rcRange.toNat) :
    encodeBit p bit s ≠ .hang := by
  have hb := bitRange_bounds bit hp hp' hr
  refine encRenorm_three_ne_hang ?_
  rw [encSplit_eq, setInterval_rcRange, BitVec.toNat_ofNat, Nat.mod_eq_of_lt (by omega)]
  omega

/-- A shift of RC_FLUSH sets the width itself, so it ends from every state (40_range_coder R132). -/
theorem flushShift_ne_hang (s : State) : flushShift s ≠ .hang :=
  encRenorm_three_ne_hang (by simp [flushRange])

theorem flushShifts_ne_hang (n : Nat) (s : State) : flushShifts n s ≠ .hang := by
  induction n generalizing s with
  | zero => simp [flushShifts]
  | succ n ih =>
    unfold flushShifts
    cases hs : flushShift s with
    | done t => exact ih t
    | overflow t => simp [thenEnc]
    | hang => exact absurd hs (flushShift_ne_hang s)

end Sys2Proof.Machine

/-! SUPPORT. Under the invariant a command answers a next state, and so does a step (00_scope R10). -/

namespace Sys2Proof.Machine

/-- The result is a next state: neither a stop nor a refusal. -/
def GoesOn (r : Result) : Prop := ∃ t, r = .next t

@[simp] theorem goesOn_next (t : State) : GoesOn (.next t) := ⟨t, rfl⟩
@[simp] theorem goesOn_answer (ws : List Word) (s : State) : GoesOn (answer ws s) := ⟨_, rfl⟩
@[simp] theorem goesOn_raiseFault (w : Word) (c : Cause) (s : State) : GoesOn (raiseFault w c s) := ⟨_, rfl⟩

@[simp] theorem goesOn_ite (c : Prop) [Decidable c] (a b : Result) :
    GoesOn (if c then a else b) ↔ (c → GoesOn a) ∧ (¬ c → GoesOn b) := by
  split <;> simp [*]

/-- A command that encodes goes on exactly when EncRenorm ends (log entry 9). -/
@[simp] theorem goesOn_finishEnc_iff (w : Word) (e : EncEnd) (after : State → State) :
    GoesOn (finishEnc w e after) ↔ e ≠ .hang := by
  cases e <;> simp [GoesOn, finishEnc, answer, raiseFault]

/-- In the faulted state a guarded command answers FAULTED_STATE, so only its body outside that state matters. -/
theorem goesOn_unlessFaulted {w : Word} {s : State} {body : Result} (h : s.faulted = false → GoesOn body) :
    GoesOn (unlessFaulted w s body) := by
  rcases unlessFaulted_cases w s body with ⟨hf, he⟩ | ⟨-, he⟩
  · rw [he]
    exact h hf
  · rw [he]
    exact goesOn_next _

/-- RC_ENC_P with a chance a word can spell: under the invariant its session has a wide enough interval. -/
theorem execRcEncP_goesOn {s : State} (hs : Inv s) (bit : Bool) {p : Nat} (hp : p < 4096) : GoesOn (execRcEncP bit p s) := by
  refine goesOn_unlessFaulted fun hf => ?_
  split
  · simp
  · rename_i hm
    obtain ⟨⟨hr, -⟩, -⟩ := hs.enc hf (not_not.1 hm)
    split
    · simp
    · exact (goesOn_finishEnc_iff ..).2 (encodeBit_ne_hang bit (by omega) (by omega) hr)

/-- ENC_CTX: besides, no context is 0 under the invariant, so every context is a chance. -/
theorem execEncCtx_goesOn {s : State} (hs : Inv s) (t : Nat) (bit : Bool) (ctx : Nat) : GoesOn (execEncCtx t bit ctx s) := by
  have hp : 1 ≤ (ctxRead s ctx).toNat := by
    have := ctxRead_ne_zero hs.ctx.2 ctx
    bv_omega
  have hp' : (ctxRead s ctx).toNat ≤ 4095 := by omega
  refine goesOn_unlessFaulted fun hf => ?_
  split
  · simp
  · split
    · simp
    · rename_i hm
      obtain ⟨⟨hr, -⟩, -⟩ := hs.enc hf (not_not.1 hm)
      split
      · simp
      · exact (goesOn_finishEnc_iff ..).2 (encodeBit_ne_hang bit hp hp' hr)

/-- RC_FLUSH, from every state. -/
theorem execRcFlush_goesOn (s : State) : GoesOn (execRcFlush s) := by
  refine goesOn_unlessFaulted fun _ => ?_
  split
  · simp
  · exact (goesOn_finishEnc_iff ..).2 (flushShifts_ne_hang _ _)

/-- Every well-formed command goes on under the invariant. Only the three that encode could stop; each of the others
answers, faults or holds on every branch. -/
theorem exec_goesOn {s : State} (hs : Inv s) {i : Instr} (hi : wellFormed i = true) : GoesOn (exec i s) := by
  cases i with
  | rcEncP bit p => exact execRcEncP_goesOn hs bit (of_decide_eq_true hi)
  | encCtx t bit ctx => exact execEncCtx_goesOn hs t bit ctx
  | rcFlush => exact execRcFlush_goesOn s
  | nop => exact goesOn_answer ..
  | regRead csr =>
    show GoesOn (execRegRead csr s)
    unfold execRegRead
    split <;> simp
  | bcPut | decCtx | tblRead =>
    refine goesOn_unlessFaulted fun _ => ?_
    simp only [goesOn_ite, goesOn_raiseFault, implies_true, true_and]
    intros
    split <;> simp
  | _ => exact goesOn_unlessFaulted fun _ => by simp

/-- The invariant says nothing of the words that wait, so taking them keeps it. -/
theorem takeWords_inv {s : State} (h : Inv s) (rest : List Word) : Inv (takeWords rest s) where
  cfg := h.cfg
  ctx := h.ctx
  tbl := h.tbl
  tblCut := h.tblCut
  tblAlpha := h.tblAlpha
  ctrl := h.ctrl
  pending := h.pending
  fault := h.fault
  faultInfo := h.faultInfo
  attached := h.attached
  detached := h.detached
  enc := h.enc
  dec := h.dec
  hold := h.hold

/-- Settles O15: a held command answers, and so does a wait or an illegal word; a command is one that words spell, hence
well formed, on a state that still meets the invariant. -/
theorem stepAlwaysGoesOn : Obligations.StepAlwaysGoesOn := by
  intro s hs
  show GoesOn (step s)
  unfold step
  cases s.hold with
  | some h => exact goesOn_next _
  | none =>
    cases hd : decode s.cmd with
    | wait => exact goesOn_next _
    | illegal w why rest => exact goesOn_next _
    | command i rest => exact exec_goesOn (takeWords_inv hs rest) (decode_wellFormed hd)

end Sys2Proof.Machine

/-! SUPPORT. What holds of the state a command leaves: one rule for each way a command is written, and one induction for
each loop of the range coder. -/

namespace Sys2Proof.Machine

/-! ### Results -/

/-- If the result is a next state, `P` holds of it. -/
def Ensures (P : State → Prop) (r : Result) : Prop := ∀ t, r = .next t → P t

section
variable {P : State → Prop}

theorem ensures_next {t : State} (h : P t) : Ensures P (.next t) := fun _ ht => Host.Outcome.next.inj ht ▸ h

@[simp] theorem ensures_next_iff (t : State) : Ensures P (.next t) ↔ P t := ⟨fun h => h t rfl, ensures_next⟩

@[simp] theorem ensures_answer_iff (ws : List Word) (s : State) : Ensures P (answer ws s) ↔ P (respondOk ws s) :=
  ensures_next_iff _

@[simp] theorem ensures_raiseFault_iff (w : Word) (c : Cause) (s : State) :
    Ensures P (raiseFault w c s) ↔ P (takeFault w c s) :=
  ensures_next_iff _

@[simp] theorem ensures_ite_iff (c : Prop) [Decidable c] (a b : Result) :
    Ensures P (if c then a else b) ↔ (c → Ensures P a) ∧ (¬ c → Ensures P b) := by
  split <;> simp [*]

/-- A guarded command answers FAULTED_STATE or does what its body does. -/
theorem ensures_unlessFaulted {w : Word} {s : State} {body : Result}
    (hf : s.faulted = true → P (takeFault w .faultedState s)) (h : s.faulted = false → Ensures P body) :
    Ensures P (unlessFaulted w s body) := by
  rcases unlessFaulted_cases w s body with ⟨hs, he⟩ | ⟨hs, he⟩
  · rw [he]
    exact h hs
  · rw [he, ← takeFault_later (w := w) hs]
    exact ensures_next (hf hs)

/-- A command that encodes finishes or raises PENDING_OVERFLOW (40_range_coder R125). -/
theorem ensures_finishEnc {w : Word} {e : EncEnd} {after : State → State}
    (hd : ∀ u, e = .done u → P (respondOk [] (after u)))
    (ho : ∀ u, e = .overflow u → P (takeFault w .pendingOverflow u)) : Ensures P (finishEnc w e after) := by
  intro t ht
  rcases finishEnc_cases ht with ⟨u, he, rfl⟩ | ⟨u, he, rfl⟩
  · exact hd u he
  · exact ho u he

/-- A check faults or passes. -/
theorem ensures_check {p : Prop} [Decidable p] {w : Word} {c : Cause} {s : State} {rest : Result}
    (hf : p → P (takeFault w c s)) (h : ¬ p → Ensures P rest) : Ensures P (if p then raiseFault w c s else rest) :=
  (ensures_ite_iff ..).2 ⟨fun hp => ensures_next (hf hp), h⟩

/-- CheckNext faults or passes with both rows' next states (41_bit_chance R167). -/
theorem ensures_checkNext {s : State} {t : Nat} {st : BitVec 12} {w : Word} {rest : BitVec 12 × BitVec 12 → Result}
    (hf : ∀ c, checkNext s t st = .error c → P (takeFault w c s))
    (h : ∀ n, checkNext s t st = .ok n → Ensures P (rest n)) :
    Ensures P (match checkNext s t st with | .error c => raiseFault w c s | .ok n => rest n) := by
  split
  · exact ensures_next (hf _ ‹_›)
  · exact h _ ‹_›

/-- What a step can do (20_memory R71, R74): a held command goes on, and otherwise the words are waited for, or are an
illegal word, or are a command. -/
theorem ensures_step {s : State} (hresume : ∀ h, s.hold = some h → P (resumeHold h s)) (hwait : P s)
    (hillegal : ∀ w why rest, s.hold = none → decode s.cmd = .illegal w why rest →
      P (takeFault w .illegalCommand (takeWords rest s)))
    (hcommand : ∀ i rest, s.hold = none → decode s.cmd = .command i rest → Ensures P (exec i (takeWords rest s))) :
    Ensures P (step s) := by
  unfold step
  cases hh : s.hold with
  | some h => exact ensures_next (hresume h hh)
  | none =>
    cases hd : decode s.cmd with
    | wait => exact ensures_next hwait
    | illegal w why rest => exact ensures_next (hillegal w why rest hh hd)
    | command i rest => exact hcommand i rest hh hd

end

/-! ### The loops of the range coder -/

section
variable {P : State → Prop}

/-- What an iteration keeps, EncRenorm keeps, however it ends (40_range_coder R125). -/
theorem encRenorm_keeps (hshift : ∀ s t, P s → s.rcRange.toNat ≤ minRange → encShift s = some t → P t) {n : Nat}
    {s t : State} (hs : P s) (h : encRenorm n s = .done t ∨ encRenorm n s = .overflow t) : P t := by
  induction n generalizing s with
  | zero =>
    unfold encRenorm at h
    split at h
    · rcases h with h | h <;> cases h
      exact hs
    · rcases h with h | h <;> cases h
  | succ n ih =>
    by_cases hw : minRange < s.rcRange.toNat
    · rw [encRenorm_wide hw] at h
      rcases h with h | h <;> cases h
      exact hs
    · rw [encRenorm_narrow hw] at h
      cases he : encShift s with
      | none =>
        rw [he] at h
        rcases h with h | h <;> cases h
        exact hs
      | some u =>
        rw [he] at h
        exact ih (hshift s u hs (Nat.not_lt.1 hw) he) h

/-- What setting the interval and an iteration keep, the shifts of RC_FLUSH keep (40_range_coder R132). -/
theorem flushShifts_keeps (hset : ∀ s low range, P s → P (setInterval low range s))
    (hshift : ∀ s t, P s → encShift s = some t → P t) {n : Nat} {s t : State} (hs : P s)
    (h : flushShifts n s = .done t ∨ flushShifts n s = .overflow t) : P t := by
  have hone : ∀ {s t}, P s → (flushShift s = .done t ∨ flushShift s = .overflow t) → P t := fun {s t} hs h =>
    encRenorm_keeps (fun s t hs _ => hshift s t hs) (hset s _ _ hs) h
  induction n generalizing s with
  | zero =>
    unfold flushShifts at h
    rcases h with h | h <;> cases h
    exact hs
  | succ n ih =>
    unfold flushShifts at h
    rcases thenEnc_cases h with ⟨u, hu, h⟩ | h
    · exact ih (hone hs (.inl hu)) h
    · exact hone hs (.inr h)

/-- What setting the interval and an iteration keep, EncodeBit keeps (40_range_coder R124). -/
theorem encodeBit_keeps (hset : ∀ s low range, P s → P (setInterval low range s))
    (hshift : ∀ s t, P s → encShift s = some t → P t) {p : Nat} {bit : Bool} {s t : State} (hs : P s)
    (h : encodeBit p bit s = .done t ∨ encodeBit p bit s = .overflow t) : P t :=
  encRenorm_keeps (fun s t hs _ => hshift s t hs) (encSplit_eq p bit s ▸ hset s _ _ hs) h

/-- What an iteration keeps, DecRefill keeps (40_range_coder R127). -/
theorem decRefill_keeps (hshift : ∀ s b rest, P s → s.rcRange.toNat ≤ minRange → P (refillShift b (takeByte rest s)))
    {bs : List Byte} {s : State} (hs : P s) : P (decRefill bs s) := by
  induction bs generalizing s with
  | nil => exact hs
  | cons b rest ih =>
    unfold decRefill
    split
    · exact hs
    · exact ih (hshift s b rest hs (by omega))

end

/-! ### The pending counter -/

/-- RC_PENDING fits its width, which is at most that of the register (10_state R46, 00_scope R5). -/
abbrev pendingOk (s : State) : Prop := s.cfg.pendW ≤ 32 ∧ s.rcPending.toNat < 2 ^ s.cfg.pendW

theorem Inv.pendingOk {s : State} (hs : Inv s) : pendingOk s := ⟨hs.cfg.pendW_le, hs.pending⟩

/-- An iteration resets the counter, leaves it, or adds one to a counter that is not full (40_range_coder R125). -/
theorem encShift_pendingOk {s t : State} (hs : pendingOk s) (h : encShift s = some t) : pendingOk t := by
  obtain ⟨hw, hp⟩ := hs
  rcases encShift_cases h with ⟨-, rfl⟩ | ⟨d, -, -, rfl⟩ | ⟨d, -, -, rfl⟩ | ⟨d, -, -, -, hfull, rfl⟩
  · exact ⟨hw, hp⟩
  · exact ⟨hw, Nat.two_pow_pos _⟩
  · exact ⟨hw, Nat.two_pow_pos _⟩
  · have h32 : 2 ^ s.cfg.pendW ≤ 2 ^ 32 := Nat.pow_le_pow_right (by decide) hw
    refine ⟨hw, ?_⟩
    show (s.rcPending + 1).toNat < 2 ^ s.cfg.pendW
    rw [BitVec.toNat_add_of_lt (by simp; omega)]
    simp
    omega

theorem encodeBit_pendingOk {p : Nat} {bit : Bool} {s t : State} (hs : pendingOk s)
    (h : encodeBit p bit s = .done t ∨ encodeBit p bit s = .overflow t) : pendingOk t :=
  encodeBit_keeps (P := pendingOk) (fun _ _ _ h => h) (fun _ _ => encShift_pendingOk) hs h

theorem flushShifts_pendingOk {n : Nat} {s t : State} (hs : pendingOk s)
    (h : flushShifts n s = .done t ∨ flushShifts n s = .overflow t) : pendingOk t :=
  flushShifts_keeps (P := pendingOk) (fun _ _ _ h => h) (fun _ _ => encShift_pendingOk) hs h

/-! ### The encoder's interval between commands -/

/-- An encoder session inside EncRenorm: `encOk` but for the least width (40_range_coder R125). -/
abbrev renormOk (s : State) : Prop :=
  (0 < s.rcRange.toNat ∧ s.rcRange.toNat ≤ 2 ^ 24) ∧ s.rcLow.toNat + s.rcRange.toNat ≤ 2 ^ 25 ∧
  (s.rcDelayed = none → s.rcPending = 0 ∧ s.rcLow.toNat + s.rcRange.toNat ≤ 2 ^ 24) ∧
  (s.rcDelayed = some 0xFF → s.rcLow.toNat + s.rcRange.toNat ≤ 2 ^ 24)

/-- Coding a bit narrows the interval within itself, so no bound is passed (40_range_coder R122, R124). -/
theorem encSplit_renormOk {s : State} {p : Nat} (bit : Bool) (hs : encOk s) (hp : 1 ≤ p) (hp' : p ≤ 4095) :
    renormOk (encSplit p bit s) := by
  obtain ⟨⟨hr, hr'⟩, hlow, hnone, hff⟩ := hs
  have hc := chance_bounds hp hp' hr
  have hb : 16 ≤ bitRange s p bit ∧ bitRange s p bit ≤ s.rcRange.toNat := bitRange_bounds bit hp hp' hr
  have htop : bitLow s p bit + bitRange s p bit ≤ s.rcLow.toNat + s.rcRange.toNat := by
    unfold bitLow bitRange
    split <;> omega
  rw [encSplit_eq]
  simp only [renormOk, setInterval_rcLow, setInterval_rcRange, setInterval_rcDelayed, setInterval_rcPending,
    BitVec.toNat_ofNat]
  rw [Nat.mod_eq_of_lt (by omega : bitLow s p bit < 2 ^ 32), Nat.mod_eq_of_lt (by omega : bitRange s p bit < 2 ^ 32)]
  exact ⟨by omega, by omega, fun h => ⟨(hnone h).1, htop.trans (hnone h).2⟩, fun h => htop.trans (hff h)⟩

/-- When an iteration leaves 0xFF delayed, the interval it scales lies within one value of RC_LOW's top byte, so no carry
can reach that byte (40_range_coder R125). -/
theorem encShift_delayed_ff {s t : State} (hs : renormOk s) (hw : s.rcRange.toNat ≤ minRange) (h : encShift s = some t)
    (ht : t.rcDelayed = some 0xFF) :
    s.rcLow.toNat % 2 ^ 16 + s.rcRange.toNat ≤ 2 ^ 16 := by
  obtain ⟨hr, hlow, hnone, hff⟩ := hs
  unfold minRange at hw
  have htop : topByte s = 0xFF → s.rcLow.toNat / 2 ^ 16 % 256 = 255 := fun h => by
    simpa [topByte] using congrArg BitVec.toNat h
  rcases encShift_cases h with ⟨hd, rfl⟩ | ⟨d, -, hl, rfl⟩ | ⟨d, -, hl, rfl⟩ | ⟨d, hd, hl, hl', -, rfl⟩
  · have := hnone hd
    have := htop (Option.some.inj ht)
    omega
  · have := htop (Option.some.inj ht)
    omega
  · have := htop (Option.some.inj ht)
    omega
  · have := hff (hd.trans ht)
    omega

/-- An iteration on a narrow interval keeps the bounds (40_range_coder R125). -/
theorem encShift_renormOk {s t : State} (hs : renormOk s) (hw : s.rcRange.toNat ≤ minRange) (h : encShift s = some t) :
    renormOk t := by
  have hff := encShift_delayed_ff hs hw h
  obtain ⟨hlow, hrange⟩ := encShift_interval h
  obtain ⟨⟨hr, -⟩, -, -, -⟩ := hs
  unfold minRange at hw
  have hlow : t.rcLow.toNat = s.rcLow.toNat % 2 ^ 16 * 2 ^ 8 := by
    rw [hlow, BitVec.toNat_ofNat, Nat.mod_eq_of_lt (by omega)]
  have hrange : t.rcRange.toNat = s.rcRange.toNat * 2 ^ 8 := by
    rw [hrange, BitVec.toNat_ofNat, Nat.mod_eq_of_lt (by omega)]
  refine ⟨by omega, by omega, fun h0 => absurd h0 (encShift_delayed h), fun h1 => ?_⟩
  have := hff h1
  omega

/-- EncodeBit leaves an encoder session as commands find it (10_state R52, 40_range_coder R123). -/
theorem encodeBit_encOk {s t : State} {p : Nat} {bit : Bool} (hs : encOk s) (hp : 1 ≤ p) (hp' : p ≤ 4095)
    (h : encodeBit p bit s = .done t) : encOk t := by
  obtain ⟨⟨-, hr⟩, hrest⟩ : renormOk t :=
    encRenorm_keeps (fun _ _ => encShift_renormOk) (encSplit_renormOk bit hs hp hp') (.inl h)
  exact ⟨⟨encRenorm_done_wide h, hr⟩, hrest⟩

/-! ### The decoder's interval between commands -/

/-- A decoder session inside DecRefill: `decOk` but for the least width (40_range_coder R122, R127). -/
abbrev refillOk (s : State) : Prop :=
  (16 ≤ s.rcRange.toNat ∧ s.rcRange.toNat ≤ 2 ^ 24) ∧ s.rcLow.toNat < s.rcRange.toNat

/-- Decoding a bit leaves the value inside the interval of that bit (40_range_coder R122, R126). -/
theorem decSplit_refillOk {s : State} {p : Nat} (hs : decOk s) (hp : 1 ≤ p) (hp' : p ≤ 4095) :
    refillOk (decSplit p s) := by
  obtain ⟨⟨hr, hr'⟩, hlow⟩ := hs
  have hc := chance_bounds hp hp' hr
  unfold decSplit
  dsimp only
  split
  · simp only [refillOk, setInterval_rcLow, setInterval_rcRange, BitVec.toNat_ofNat]
    omega
  · simp only [refillOk, setInterval_rcLow, setInterval_rcRange, BitVec.toNat_ofNat]
    omega

/-- Scaling a narrow interval keeps the value inside it, whatever byte is read (40_range_coder R127). -/
theorem refillShift_refillOk {s : State} (hs : refillOk s) (hw : s.rcRange.toNat ≤ minRange) (b : Byte)
    (rest : List Byte) : refillOk (refillShift b (takeByte rest s)) := by
  obtain ⟨hr, hlow⟩ := hs
  have hb : b.toNat < 256 := b.isLt
  unfold minRange at hw
  simp only [refillOk, refillShift, setInterval_rcLow, setInterval_rcRange, takeByte_rcLow, takeByte_rcRange,
    BitVec.toNat_ofNat]
  omega

theorem decRefill_refillOk {s : State} (hs : refillOk s) (bs : List Byte) : refillOk (decRefill bs s) :=
  decRefill_keeps (P := refillOk) (fun _ b rest hs hw => refillShift_refillOk hs hw b rest) hs

/-- The window of RC_START_DEC with `left` of its three bytes still to be read (40_range_coder R129). -/
abbrev windowOk (left : Nat) (s : State) : Prop :=
  left ≤ 3 ∧ s.rcRange = 0x01000000 ∧ s.rcLow.toNat < 2 ^ (8 * (3 - left))

theorem pushLow_windowOk {n : Nat} {s : State} (hs : windowOk (n + 1) s) (b : Byte) (rest : List Byte) :
    windowOk n (pushLow b (takeByte rest s)) := by
  obtain ⟨hn, hr, hlow⟩ := hs
  have hb : b.toNat < 256 := b.isLt
  have hpow : 2 ^ (8 * (3 - n)) = 2 ^ (8 * (3 - (n + 1))) * 2 ^ 8 := by
    rw [← Nat.pow_add]
    congr 1
    omega
  have hmax : 2 ^ (8 * (3 - (n + 1))) ≤ 2 ^ 16 := Nat.pow_le_pow_right (by decide) (by omega)
  refine ⟨by omega, by simp [pushLow, hr], ?_⟩
  simp only [pushLow, setInterval_rcLow, takeByte_rcLow, BitVec.toNat_ofNat]
  omega

theorem fillWindow_windowOk {n : Nat} {s : State} (hs : windowOk n s) :
    windowOk (fillWindow n s).1 (fillWindow n s).2 := by
  induction n generalizing s with
  | zero => exact hs
  | succ n ih =>
    cases hsrc : s.src with
    | nil => simpa only [fillWindow, readByte_nil hsrc] using hs
    | cons b rest => simpa only [fillWindow, readByte_cons hsrc] using ih (pushLow_windowOk hs b rest)

end Sys2Proof.Machine

/-! SUPPORT. Each named update of the state keeps the invariant of 10_state R52, under the condition its rule states. -/

namespace Sys2Proof.Machine

/-! ### What the invariant depends on -/

/-- Only MODE, the coder's registers, the counts of bytes, the hold and the ports differ. -/
abbrev frameSession (s t : State) : Prop :=
  t = { s with
    mode := t.mode, rcLow := t.rcLow, rcRange := t.rcRange, rcDelayed := t.rcDelayed, rcPending := t.rcPending,
    bytesIn := t.bytesIn, bytesOut := t.bytesOut, hold := t.hold
    cmd := t.cmd, src := t.src, srcEof := t.srcEof, snk := t.snk, resp := t.resp }

section
variable {s t u : State} (h : frameSession s t)
include h

theorem frameSession.trans (h' : frameSession t u) : frameSession s u := by
  unfold frameSession at *
  rw [h', h]

theorem frameSession.cfg : t.cfg = s.cfg := by rw [h]
theorem frameSession.faulted : t.faulted = s.faulted := by rw [h]
theorem frameSession.cause : t.cause = s.cause := by rw [h]

end

theorem frameCoder.session {s t : State} (h : frameCoder s t) : frameSession s t := by
  unfold frameCoder frameSession at *
  rw [h]

theorem frameSource.session {s t : State} (h : frameSource s t) : frameSession s t := by
  unfold frameSource frameSession at *
  rw [h]

/-- The invariant of a state that differs in its session only is that of its session (10_state R52). -/
theorem inv_of_frameSession {s t : State} (hs : Inv s) (hf : frameSession s t) (hp : t.rcPending.toNat < 2 ^ t.cfg.pendW)
    (henc : t.faulted = false → t.mode = .enc → encOk t)
    (hdec : t.faulted = false → t.hold = none → t.mode = .dec → decOk t)
    (hhold : ∀ h, t.hold = some h → t.faulted = false ∧ holdOk h t) : Inv t := by
  unfold frameSession at hf
  rw [hf] at hp henc hdec hhold ⊢
  exact { hs with pending := hp, enc := henc, dec := hdec, hold := hhold }

/-! ### Answers and faults -/

theorem respondOk_inv {s : State} (hs : Inv s) (ws : List Word) : Inv (respondOk ws s) :=
  inv_of_frameSession hs rfl hs.pending hs.enc hs.dec hs.hold

/-- A fault that a command raises is recorded with its cause, and no session is left to speak of (60_exceptions R272): it
may be raised when the session has changed from a state that meets the invariant. -/
theorem takeFault_inv_of_frameSession {s t : State} {c : Cause} (hs : Inv s) (hf : frameSession s t) (hp : pendingOk t)
    (hh : t.hold = none) (w : Word) (hc : c ≠ .noFault := by decide)
    (hc' : t.faulted = false → c ≠ .faultedState := by simp) : Inv (takeFault w c t) := by
  have hfault : (takeFault w c t).cause ≠ .noFault ∧ (takeFault w c t).cause ≠ .faultedState := by
    obtain ⟨hiff, hne⟩ := hs.fault
    rw [takeFault_cause]
    split
    · rename_i h
      rw [hf.cause]
      exact ⟨hiff.1 (hf.faulted ▸ h), hne⟩
    · exact ⟨hc, hc' (Bool.eq_false_iff.2 ‹_›)⟩
  obtain ⟨-, hp⟩ := hp
  unfold frameSession at hf
  rw [hf] at hp hh hfault ⊢
  exact {
    hs with
    pending := hp
    fault := ⟨iff_of_true rfl hfault.1, hfault.2⟩
    faultInfo := nofun
    enc := nofun
    dec := nofun
    hold := fun _ h => nomatch hh.symm.trans h }

theorem takeFault_inv {s : State} {c : Cause} (hs : Inv s) (hn : s.hold = none) (w : Word)
    (hc : c ≠ .noFault := by decide) (hc' : s.faulted = false → c ≠ .faultedState := by simp) : Inv (takeFault w c s) :=
  takeFault_inv_of_frameSession hs rfl hs.pendingOk hn w hc hc'

/-- A guarded command keeps the invariant when its body does outside the faulted state. -/
theorem unlessFaulted_inv {s : State} (hs : Inv s) (hn : s.hold = none) {w : Word} {body : Result}
    (h : s.faulted = false → Ensures Inv body) : Ensures Inv (unlessFaulted w s body) :=
  ensures_unlessFaulted (fun hf => takeFault_inv hs hn w (hc' := by simp [hf])) h

/-- A check that raises a fault before any effect (60_exceptions R274): only what comes after it matters. -/
theorem check_inv {s : State} (hs : Inv s) (hn : s.hold = none) {p : Prop} [Decidable p] {w : Word} {c : Cause}
    {rest : Result} (h : ¬ p → Ensures Inv rest) (hc : c ≠ .noFault ∧ c ≠ .faultedState := by decide) :
    Ensures Inv (if p then raiseFault w c s else rest) :=
  ensures_check (fun _ => takeFault_inv hs hn w hc.1 fun _ => hc.2) h

/-- So is CheckNext (41_bit_chance R167). -/
theorem checkNext_inv {s : State} (hs : Inv s) (hn : s.hold = none) {t : Nat} {st : BitVec 12} {w : Word}
    {rest : BitVec 12 × BitVec 12 → Result} (h : ∀ n, checkNext s t st = .ok n → Ensures Inv (rest n)) :
    Ensures Inv (match checkNext s t st with | .error c => raiseFault w c s | .ok n => rest n) := by
  refine ensures_checkNext (fun c hc => ?_) h
  have hcause : c = .tableUnset ∨ c = .badChance := (checkNext_error hc).imp And.left And.left
  exact takeFault_inv hs hn w (by rintro rfl; simp at hcause) (by rintro - rfl; simp at hcause)

/-! ### Registers and arrays -/

theorem setCtrl_inv {s : State} (hs : Inv s) {v : Word} (hv : v.toNat < 2) : Inv (setCtrl v s) := { hs with ctrl := hv }

theorem ctxWrite_inv {s : State} (hs : Inv s) {i : Nat} {v : BitVec 12} (hi : i < s.cfg.nctx) (hv : v ≠ 0) :
    Inv (ctxWrite i v s) :=
  { hs with ctx := ⟨cellSet_wf hs.ctx.1 hi v, cellSet_forall (P := (· ≠ 0)) hs.ctx.2 hv i⟩ }

theorem ctxClear_inv {s : State} (hs : Inv s) : Inv (ctxClear s) :=
  { hs with ctx := ⟨⟨List.Pairwise.nil, by simp⟩, by simp⟩ }

theorem tblPut_inv {s : State} (hs : Inv s) {t st : Nat} (ht : t < s.cfg.ntab) (hst : st < 4096) (b : Bool)
    (v : BitVec 16) : Inv (tblPut t b st v s) :=
  { hs with tbl := cellPut_openWf hs.tbl (tblKey_lt ht hst) v }

theorem tblLoad_inv {s : State} (hs : Inv s) {t : Nat} (ht : t < s.cfg.ntab) {r0 r1 : List (BitVec 16)}
    (h0 : r0.length = 4096) (h1 : r1.length = 4096) : Inv (tblLoad t r0 r1 s) :=
  { hs with tbl := tblLoad_openWf hs.tbl h0 h1 ht }

theorem setTblParams_inv {s : State} (hs : Inv s) {t : Nat} (ht : t < s.cfg.ntab) (cut alpha : Word) :
    Inv (setTblParams t cut alpha s) :=
  { hs with tblCut := cellSet_wf hs.tblCut ht cut, tblAlpha := cellSet_wf hs.tblAlpha ht alpha }

/-- Attaching sets YC_PAR from plane maxima within its limit (42_ycocg R200, R201). -/
theorem setColour_attach_inv {s : State} (hs : Inv s) {par m0 m1 m2 : Word}
    (hpar : par.toNat = max (max m0.toNat m1.toNat) m2.toNat / 4 + 1)
    (hmax : max (max m0.toNat m1.toNat) m2.toNat ≤ s.cfg.ycMaxV) : Inv (setColour true par m0 m1 m2 s) :=
  { hs with attached := fun _ => ⟨hpar, hmax⟩, detached := nofun }

theorem setColour_detach_inv {s : State} (hs : Inv s) : Inv (setColour false 0 0 0 0 s) :=
  { hs with attached := nofun, detached := fun _ => ⟨rfl, rfl, rfl, rfl⟩ }

theorem setMode_idle_inv {s : State} (hs : Inv s) (hn : s.hold = none) : Inv (setMode .idle s) :=
  inv_of_frameSession hs rfl hs.pending nofun nofun (fun _ h => nomatch hn.symm.trans h)

/-- RC_START_ENC opens a session in which nothing has been coded (40_range_coder R128). -/
theorem openEncoder_inv {s : State} (hs : Inv s) (hn : s.hold = none) :
    Inv (setCarry none 0 (setInterval 0 baseRange { setMode .enc s with bytesOut := 0 })) :=
  inv_of_frameSession hs rfl (Nat.two_pow_pos _) (fun _ _ => by simp [encOk, rangeOk, baseRange])
    nofun (fun _ h => nomatch hn.symm.trans h)

end Sys2Proof.Machine

/-! SUPPORT. Every command, held or not, keeps the invariant of 10_state R52. -/

namespace Sys2Proof.Machine

/-! ### Coding -/

/-- What encoding a bit leaves keeps the invariant: if it finished, and also once its PENDING_OVERFLOW is recorded
(40_range_coder R125). -/
theorem encodeBit_inv {s : State} (hs : Inv s) (hn : s.hold = none) (hf : s.faulted = false) (hm : s.mode = .enc)
    {p : Nat} (hp : 1 ≤ p) (hp' : p ≤ 4095) (bit : Bool) :
    (∀ u, encodeBit p bit s = .done u → Inv u) ∧
    (∀ u, encodeBit p bit s = .overflow u → ∀ w, Inv (takeFault w .pendingOverflow u)) := by
  refine ⟨fun u hu => ?_, fun u hu w => ?_⟩
  · have hframe := encodeBit_frame (.inl hu)
    have hmode : u.mode = .enc := by rw [hframe]; exact hm
    have hhold : u.hold = none := by rw [hframe]; exact hn
    exact inv_of_frameSession hs hframe.session (encodeBit_pendingOk hs.pendingOk (.inl hu)).2
      (fun _ _ => encodeBit_encOk (hs.enc hf hm) hp hp' hu) (fun _ _ h => nomatch hmode.symm.trans h)
      (fun _ h => nomatch hhold.symm.trans h)
  · have hframe := encodeBit_frame (.inr hu)
    have hhold : u.hold = none := by rw [hframe]; exact hn
    exact takeFault_inv_of_frameSession hs hframe.session (encodeBit_pendingOk hs.pendingOk (.inr hu)) hhold w

/-- What RC_FLUSH leaves keeps the invariant: its session is over (40_range_coder R132). -/
theorem flush_inv {s : State} (hs : Inv s) (hn : s.hold = none) (low range : Nat) :
    (∀ u, flushShifts 4 (setInterval low range s) = .done u → Inv (setMode .idle u)) ∧
    (∀ u, flushShifts 4 (setInterval low range s) = .overflow u → ∀ w, Inv (takeFault w .pendingOverflow u)) := by
  have hopen : pendingOk (setInterval low range s) := hs.pendingOk
  have hspec : ∀ {u}, (flushShifts 4 (setInterval low range s) = .done u ∨
      flushShifts 4 (setInterval low range s) = .overflow u) → frameSession s u ∧ pendingOk u ∧ u.hold = none := fun hu => by
    have hframe := (setInterval_frame low range s).trans (flushShifts_frame hu)
    exact ⟨hframe.session, flushShifts_pendingOk hopen hu, by rw [hframe]; exact hn⟩
  refine ⟨fun u hu => ?_, fun u hu w => ?_⟩
  · obtain ⟨hframe, hp, hhold⟩ := hspec (.inl hu)
    exact inv_of_frameSession hs (hframe.trans rfl) hp.2 nofun nofun (fun _ h => nomatch hhold.symm.trans h)
  · obtain ⟨hframe, hp, hhold⟩ := hspec (.inr hu)
    exact takeFault_inv_of_frameSession hs hframe hp hhold w

/-- A decode whose interval and update are legal ends in a state that meets the invariant: it answers, or faults, or holds
with them (20_memory R73, R74). -/
theorem settleDecode_inv {s t : State} (hs : Inv s) (hf : s.faulted = false) (hm : s.mode = .dec)
    (hframe : frameSource s t) (ht : refillOk t) {u : Option (Nat × BitVec 12)}
    (hu : ∀ i v, u = some (i, v) → i < s.cfg.nctx ∧ v ≠ 0) (w : Word) (bit : Bool) : Inv (settleDecode w bit u t) := by
  obtain ⟨⟨hr, hr'⟩, hlow⟩ := ht
  have hmode : t.mode = .dec := by rw [hframe]; exact hm
  have hpending : pendingOk t := by rw [hframe]; exact hs.pendingOk
  have hsession : ∀ h, frameSession s (setHold h t) := fun _ => hframe.session.trans rfl
  have hnoenc : t.mode ≠ .enc := by simp [hmode]
  rcases settleDecode_cases w bit u t with ⟨hw, he⟩ | ⟨-, -, he⟩ | ⟨hw, -, he⟩
  · have hinv : Inv (setHold none t) :=
      inv_of_frameSession hs (hsession none) hpending.2 (fun _ h => absurd h hnoenc) (fun _ _ _ => ⟨⟨hw, hr'⟩, hlow⟩)
        nofun
    rw [he]
    refine respondOk_inv ?_ _
    match u, hu with
    | none, _ => exact hinv
    | some (i, v), hu =>
      obtain ⟨hi, hv⟩ := hu i v rfl
      exact ctxWrite_inv hinv (hframe.session.cfg ▸ hi) hv
  · rw [he]
    exact takeFault_inv_of_frameSession hs (hsession none) hpending rfl w
  · have hhold : holdOk ⟨w, .refill bit u⟩ t := ⟨hmode, hr, hw, hlow, hframe.session.cfg ▸ hu⟩
    rw [he]
    exact inv_of_frameSession hs (hsession _) hpending.2 (fun _ h => absurd h hnoenc) nofun
      (fun _ h => Option.some.inj h ▸ ⟨hframe.session.faulted.trans hf, hhold⟩)

/-- Decoding a bit of a session keeps the invariant (40_range_coder R126). -/
theorem decodeWith_inv {s : State} (hs : Inv s) (hn : s.hold = none) (hf : s.faulted = false) (hm : s.mode = .dec)
    {p : Nat} (hp : 1 ≤ p) (hp' : p ≤ 4095) {next : Bool → Option (Nat × BitVec 12)}
    (hu : ∀ bit i v, next bit = some (i, v) → i < s.cfg.nctx ∧ v ≠ 0) (w : Word) : Inv (decodeWith w p next s) :=
  settleDecode_inv hs hf hm ((decSplit_frame p s).trans (decRefill_frame ..))
    (decRefill_refillOk (decSplit_refillOk (hs.dec hf hn hm) hp hp') _) (hu _) w _

/-- How RC_START_DEC ends keeps the invariant: with its window full it opens a decoder session, and short of bytes it
faults, or holds with what it has read (40_range_coder R129; 20_memory R73, R74). -/
theorem settleStart_inv {s t : State} (hs : Inv s) (hf : s.faulted = false) (hframe : frameSession s t)
    (hm : t.mode = .idle) (hp : pendingOk t) {left : Nat} (ht : windowOk left t) :
    Inv (settleStart (encodeWord .rcStartDec) (left, t)) := by
  obtain ⟨hl, hr, hlow⟩ := ht
  rcases settleStart_cases (encodeWord .rcStartDec) (left, t) with ⟨hleft, he⟩ | ⟨-, -, he⟩ | ⟨hleft, -, he⟩
  · have hdec : decOk (setMode .dec (setHold none t)) := by
      obtain rfl : left = 0 := hleft
      simp only [decOk, rangeOk, setMode_rcRange, setMode_rcLow, setHold_rcRange, setHold_rcLow, hr]
      exact ⟨by decide, hlow⟩
    rw [he]
    refine respondOk_inv ?_ _
    exact inv_of_frameSession hs (hframe.trans rfl) hp.2 nofun (fun _ _ _ => hdec) nofun
  · rw [he]
    exact takeFault_inv_of_frameSession (t := setHold none t) hs (hframe.trans rfl) hp rfl _
  · have hhold : holdOk ⟨encodeWord .rcStartDec, .startDec left⟩ t := ⟨rfl, Nat.pos_of_ne_zero hleft, hl, hm, hr, hlow⟩
    rw [he]
    exact inv_of_frameSession hs (hframe.trans rfl) hp.2 (fun _ h => nomatch hm.symm.trans h) nofun
      (fun _ h => Option.some.inj h ▸ ⟨hframe.faulted.trans hf, hhold⟩)

/-- RC_START_DEC fills its window, from its start or from where it held, within the invariant (40_range_coder R129). -/
theorem fillAndSettle_inv {s t : State} (hs : Inv s) (hf : s.faulted = false) (hframe : frameSession s t)
    (hm : t.mode = .idle) (hp : pendingOk t) {n : Nat} (ht : windowOk n t) :
    Inv (settleStart (encodeWord .rcStartDec) (fillWindow n t)) := by
  obtain ⟨hfill, -⟩ := fillWindow_spec n t
  refine settleStart_inv hs hf (hframe.trans hfill.session) ?_ ?_ (fillWindow_windowOk ht)
  · rw [hfill]
    exact hm
  · rw [hfill]
    exact hp

/-- A held command goes on within the invariant (20_memory R74). -/
theorem resumeHold_inv {s : State} (hs : Inv s) {h : Hold} (hh : s.hold = some h) : Inv (resumeHold h s) := by
  obtain ⟨hf, hok⟩ := hs.hold h hh
  obtain ⟨w, point⟩ := h
  cases point with
  | startDec left =>
    obtain ⟨rfl, -, hl, hm, hr, hlow⟩ := hok
    exact fillAndSettle_inv hs hf rfl hm hs.pendingOk ⟨hl, hr, hlow⟩
  | refill bit u =>
    obtain ⟨hm, hr, hr', hlow, hu⟩ := hok
    exact settleDecode_inv hs hf hm (decRefill_frame ..) (decRefill_refillOk ⟨⟨hr, by omega⟩, hlow⟩ _) hu w bit

/-! ### Commands -/

/-- The next states that CheckNext passes are contexts BC_SET could write (41_bit_chance R167). -/
theorem nextOf_ne_zero {s : State} {t : Nat} {st : BitVec 12} {n : BitVec 12 × BitVec 12} (h : checkNext s t st = .ok n)
    (bit : Bool) : nextOf n bit ≠ 0 := by
  obtain ⟨v0, v1, -, -, h0, h1, rfl⟩ := (checkNext_ok_iff ..).1 h
  cases bit
  · exact (setWidth_of_isChance h0).2
  · exact (setWidth_of_isChance h1).2

theorem lt_of_indexOk {s : State} {t ctx : Nat} (h : ¬ (!indexOk s t ctx) = true) :
    t < s.cfg.ntab ∧ ctx < s.cfg.nctx := by
  simpa [indexOk] using h

/-- A plane that YCC_INIT accepts has a maximum that is positive as a signed word (42_ycocg R201). -/
theorem toInt_of_planeOk {lo : Int} {hi : Word} (h : planeOk lo (asI32 hi) = true) : asI32 hi = hi.toNat := by
  obtain ⟨h0, h1⟩ : 0 ≤ lo ∧ lo < hi.toInt := of_decide_eq_true h
  exact BitVec.toInt_eq_toNat_of_msb (by rw [BitVec.msb_eq_toInt, decide_eq_false_iff_not]; omega)

/-- YCC_INIT attaches with plane maxima that are positive as signed words, so YC_PAR is what they give (42_ycocg R200,
R201). -/
theorem execYccInit_inv {s : State} (hs : Inv s) (hn : s.hold = none) (np : Nat) (min0 max0 min1 max1 min2 max2 : Word) :
    Ensures Inv (execYccInit np min0 max0 min1 max1 min2 max2 s) := by
  refine unlessFaulted_inv hs hn fun _ => ?_
  split
  · rename_i h
    simp only [Bool.and_eq_true] at h
    obtain ⟨⟨⟨-, h0⟩, h1⟩, h2⟩ := h
    have hV := hs.cfg.ycMaxV_le
    simp only [toInt_of_planeOk h0, toInt_of_planeOk h1, toInt_of_planeOk h2]
    refine check_inv hs hn fun htop => ensures_next (respondOk_inv ?_ _)
    have hmax : max (max max0.toNat max1.toNat) max2.toNat ≤ s.cfg.ycMaxV := by omega
    refine setColour_attach_inv hs ?_ hmax
    rw [asU32, BitVec.toNat_ofInt]
    omega
  · exact ensures_next (respondOk_inv (setColour_detach_inv hs) _)

/-- Under the invariant every context is a chance (10_state R50). -/
theorem ctxRead_bounds {s : State} (hs : Inv s) (ctx : Nat) :
    1 ≤ (ctxRead s ctx).toNat ∧ (ctxRead s ctx).toNat ≤ 4095 := by
  have := ctxRead_ne_zero hs.ctx.2 ctx
  bv_omega

/-- Every well-formed command keeps the invariant: it makes its checks, then updates the state by a rule above. -/
theorem exec_inv {s : State} (hs : Inv s) (hn : s.hold = none) {i : Instr} (hi : wellFormed i = true) :
    Ensures Inv (exec i s) := by
  cases i with
  | nop => exact ensures_next (respondOk_inv hs _)
  | regRead csr =>
    show Ensures Inv (execRegRead csr s)
    unfold execRegRead
    split
    · exact ensures_next (takeFault_inv hs hn _)
    · exact ensures_next (respondOk_inv hs _)
  | regWrite csr v =>
    exact unlessFaulted_inv hs hn fun _ => check_inv hs hn fun _ => check_inv hs hn fun _ => check_inv hs hn fun hv =>
      ensures_next (respondOk_inv (setCtrl_inv hs (by omega)) _)
  | rcStartEnc => exact unlessFaulted_inv hs hn fun _ => ensures_next (respondOk_inv (openEncoder_inv hs hn) _)
  | rcStartDec =>
    refine unlessFaulted_inv hs hn fun hf => ensures_next (fillAndSettle_inv hs hf rfl rfl ?_ ?_)
    · exact ⟨hs.cfg.pendW_le, Nat.two_pow_pos _⟩
    · exact ⟨le_rfl, rfl, Nat.zero_lt_one⟩
  | rcAbort => exact unlessFaulted_inv hs hn fun _ => ensures_next (respondOk_inv (setMode_idle_inv hs hn) _)
  | rcFlush =>
    refine unlessFaulted_inv hs hn fun _ => check_inv hs hn fun _ => ?_
    obtain ⟨hd, ho⟩ := flush_inv hs hn (s.rcLow.toNat + flushRange) s.rcRange.toNat
    exact ensures_finishEnc (fun u hu => respondOk_inv (hd u hu) _) (fun u hu => ho u hu _)
  | rcEncP bit p =>
    have hp : p < 4096 := of_decide_eq_true hi
    refine unlessFaulted_inv hs hn fun hf => check_inv hs hn fun hm => check_inv hs hn fun hp0 => ?_
    obtain ⟨hd, ho⟩ := encodeBit_inv hs hn hf (not_not.1 hm) (p := p) (by omega) (by omega) bit
    exact ensures_finishEnc (fun u hu => respondOk_inv (hd u hu) _) (fun u hu => ho u hu _)
  | encCtx t bit ctx =>
    obtain ⟨hp, hp'⟩ := ctxRead_bounds hs ctx
    refine unlessFaulted_inv hs hn fun hf => check_inv hs hn fun hix => check_inv hs hn fun hm =>
      checkNext_inv hs hn fun n hnext => ?_
    obtain ⟨hd, ho⟩ := encodeBit_inv hs hn hf (not_not.1 hm) hp hp' bit
    refine ensures_finishEnc (fun u hu => respondOk_inv (ctxWrite_inv (hd u hu) ?_ (nextOf_ne_zero hnext bit)) _)
      (fun u hu => ho u hu _)
    rw [(encodeBit_frame (.inl hu)).session.cfg]
    exact (lt_of_indexOk hix).2
  | rcDecP p =>
    have hp : p < 4096 := of_decide_eq_true hi
    exact unlessFaulted_inv hs hn fun hf => check_inv hs hn fun hm => check_inv hs hn fun hp0 =>
      ensures_next (decodeWith_inv hs hn hf (not_not.1 hm) (by omega) (by omega) (by simp) _)
  | decCtx t ctx =>
    obtain ⟨hp, hp'⟩ := ctxRead_bounds hs ctx
    refine unlessFaulted_inv hs hn fun hf => check_inv hs hn fun hix => check_inv hs hn fun hm =>
      checkNext_inv hs hn fun n hnext => ?_
    refine ensures_next (decodeWith_inv hs hn hf (not_not.1 hm) hp hp' (fun bit i v h => ?_) _)
    obtain ⟨rfl, rfl⟩ := Prod.mk.inj (Option.some.inj h)
    exact ⟨(lt_of_indexOk hix).2, nextOf_ne_zero hnext bit⟩
  | bcClear => exact unlessFaulted_inv hs hn fun _ => ensures_next (respondOk_inv (ctxClear_inv hs) _)
  | bcSet ctx v =>
    refine unlessFaulted_inv hs hn fun _ => check_inv hs hn fun hi => check_inv hs hn fun hv =>
      ensures_next (respondOk_inv (ctxWrite_inv hs (Nat.not_le.1 hi) ?_) _)
    bv_omega
  | bcPut t bit ctx =>
    exact unlessFaulted_inv hs hn fun _ => check_inv hs hn fun hix => checkNext_inv hs hn fun n hnext =>
      ensures_next (respondOk_inv (ctxWrite_inv hs (lt_of_indexOk hix).2 (nextOf_ne_zero hnext bit)) _)
  | tblBuild t cut alpha =>
    refine unlessFaulted_inv hs hn fun _ => check_inv hs hn fun ht => check_inv hs hn fun _ => ensures_next ?_
    have ht : t < s.cfg.ntab := Nat.not_le.1 ht
    obtain ⟨h0, h1⟩ := buildFn_length s.cfg.buildFn cut alpha.toNat
    refine respondOk_inv (setTblParams_inv ?_ ?_ _ _) _
    · split
      · exact tblLoad_inv hs ht h1 h0
      · exact tblLoad_inv hs ht h0 h1
    · split <;> exact ht
  | tblWrite t b st v =>
    obtain ⟨-, hst⟩ : t < 16 ∧ st < 4096 := by simpa [wellFormed] using hi
    exact unlessFaulted_inv hs hn fun _ => check_inv hs hn fun ht => check_inv hs hn fun _ => ensures_next
      (respondOk_inv (setTblParams_inv (tblPut_inv hs (Nat.not_le.1 ht) hst b _) (Nat.not_le.1 ht) _ _) _)
  | tblRead t b st =>
    refine unlessFaulted_inv hs hn fun _ => check_inv hs hn fun _ => ?_
    split
    · exact ensures_next (takeFault_inv hs hn _)
    · exact ensures_next (respondOk_inv hs _)
  | yccInit np min0 max0 min1 max1 min2 max2 => exact execYccInit_inv hs hn np min0 max0 min1 max1 min2 max2
  | _ => exact unlessFaulted_inv hs hn fun _ => by simp [takeFault_inv, respondOk_inv, hs, hn]

/-- Settles O13: a held command goes on, an illegal word faults, and a command that words spell is well formed. -/
theorem stepKeepsTheInvariant : Obligations.StepKeepsTheInvariant := by
  intro s t hs
  have hwords := takeWords_inv hs
  exact ensures_step (fun h hh => resumeHold_inv hs hh) hs
    (fun w why rest hn _ => takeFault_inv (hwords rest) hn w)
    (fun i rest hn hd => exec_inv (hwords rest) hn (decode_wellFormed hd)) t

/-- The reset values meet the invariant with any legal parameters (70_reset_and_hazards R300, R301). -/
theorem hostReset_inv {s : State} (hp : s.cfg.Legal) : Inv (hostReset s) where
  cfg := hp
  ctx := ⟨⟨List.Pairwise.nil, nofun⟩, nofun⟩
  tbl := ⟨List.Pairwise.nil, nofun⟩
  tblCut := ⟨List.Pairwise.nil, nofun⟩
  tblAlpha := ⟨List.Pairwise.nil, nofun⟩
  ctrl := (by decide : (1 : Word).toNat < 2)
  pending := Nat.two_pow_pos _
  fault := ⟨⟨nofun, fun h => absurd rfl h⟩, nofun⟩
  faultInfo := fun _ => rfl
  attached := nofun
  detached := fun _ => ⟨rfl, rfl, rfl, rfl⟩
  enc := nofun
  dec := nofun
  hold := nofun

/-- Settles O12: the state after power-on is its own reset, and the default parameters are legal. -/
theorem resetMeetsTheInvariant : Obligations.ResetMeetsTheInvariant :=
  hostReset_inv (s := State.reset) (by constructor <;> decide)

/-- Settles O14: what the host sends or appends is no part of what the invariant speaks of, and a reset leaves reset values
with the parameters there were. -/
theorem hostActionsKeepTheInvariant : Obligations.HostActionsKeepTheInvariant := by
  intro a s hs
  cases a with
  | send ws => exact inv_of_frameSession hs rfl hs.pending hs.enc hs.dec hs.hold
  | feed bs => exact inv_of_frameSession hs rfl hs.pending hs.enc hs.dec hs.hold
  | setEof => exact inv_of_frameSession hs rfl hs.pending hs.enc hs.dec hs.hold
  | reset => exact hostReset_inv hs.cfg

end Sys2Proof.Machine

/-! SUPPORT. The frame of every command (10_state R34, R36, R39, R40, R49 to R51), and how it uses the ports. -/

namespace Sys2Proof.Machine

/-- `t` differs from `s` only in what the command `i` may write; bytes were only taken from the front of the source, and
the sink and the responses only grew (20_memory R72, R73, R75). -/
structure KeepsTo (i : Instr) (s t : State) : Prop where
  cfg : t.cfg = s.cfg
  cmd : t.cmd = s.cmd
  srcEof : t.srcEof = s.srcEof
  mode : writesMode i = false → t.mode = s.mode
  colour : writesColour i = false →
    t.attached = s.attached ∧ t.ycPar = s.ycPar ∧ t.ycMax0 = s.ycMax0 ∧ t.ycMax1 = s.ycMax1 ∧ t.ycMax2 = s.ycMax2
  ctrl : writesCtrl i = false → t.ctrl = s.ctrl
  interval : writesInterval i = false → t.rcLow = s.rcLow ∧ t.rcRange = s.rcRange
  carry : writesCarry i = false → t.rcDelayed = s.rcDelayed ∧ t.rcPending = s.rcPending
  sink : writesSink i = false → t.snk = s.snk ∧ (i ≠ .rcStartEnc → t.bytesOut = s.bytesOut)
  source : readsSource i = false → t.src = s.src ∧ t.bytesIn = s.bytesIn ∧ t.hold = s.hold
  ctx : writesCtx i = false → t.ctx = s.ctx
  tbl : writesTbl i = false → t.tbl = s.tbl ∧ t.tblCut = s.tblCut ∧ t.tblAlpha = s.tblAlpha
  taken : t.src <:+ s.src
  written : s.snk <+: t.snk
  answers : s.resp <+: t.resp

theorem keepsTo_refl (i : Instr) (s : State) : KeepsTo i s s := by
  constructor <;> simp

/-! ### The named updates, each where the command may write what it writes -/

section
variable {i : Instr} {s t : State} (h : KeepsTo i s t)
include h

theorem keepsTo_respondOk (ws : List Word) : KeepsTo i s (respondOk ws t) :=
  { h with answers := h.answers.trans (List.prefix_append ..) }

theorem keepsTo_takeFault (w : Word) (c : Cause) : KeepsTo i s (takeFault w c t) :=
  { h with answers := h.answers.trans (List.prefix_append ..) }

theorem keepsTo_setMode (hi : writesMode i = true) (m : Mode) : KeepsTo i s (setMode m t) :=
  { h with mode := by simp [hi] }

theorem keepsTo_setInterval (hi : writesInterval i = true) (low range : Nat) : KeepsTo i s (setInterval low range t) :=
  { h with interval := by simp [hi] }

theorem keepsTo_setCarry (hi : writesCarry i = true) (d : Option Byte) (n : Word) : KeepsTo i s (setCarry d n t) :=
  { h with carry := by simp [hi] }

theorem keepsTo_writeBytes (hi : writesSink i = true) (bs : List Byte) : KeepsTo i s (writeBytes bs t) :=
  { h with sink := by simp [hi], written := h.written.trans (List.prefix_append ..) }

theorem keepsTo_takeByte (hi : readsSource i = true) {b : Byte} {rest : List Byte} (hsrc : t.src = b :: rest) :
    KeepsTo i s (takeByte rest t) :=
  { h with source := by simp [hi], taken := (hsrc ▸ List.suffix_cons b rest : rest <:+ t.src).trans h.taken }

theorem keepsTo_setHold (hi : readsSource i = true) (o : Option Hold) : KeepsTo i s (setHold o t) :=
  { h with source := by simp [hi] }

theorem keepsTo_setCtrl (hi : writesCtrl i = true) (w : Word) : KeepsTo i s (setCtrl w t) :=
  { h with ctrl := by simp [hi] }

theorem keepsTo_setColour (hi : writesColour i = true) (a : Bool) (par m0 m1 m2 : Word) :
    KeepsTo i s (setColour a par m0 m1 m2 t) :=
  { h with colour := by simp [hi] }

theorem keepsTo_ctxWrite (hi : writesCtx i = true) (k : Nat) (v : BitVec 12) : KeepsTo i s (ctxWrite k v t) :=
  { h with ctx := by simp [hi] }

theorem keepsTo_ctxClear (hi : writesCtx i = true) : KeepsTo i s (ctxClear t) := { h with ctx := by simp [hi] }

theorem keepsTo_tblPut (hi : writesTbl i = true) (k st : Nat) (b : Bool) (v : BitVec 16) :
    KeepsTo i s (tblPut k b st v t) :=
  { h with tbl := by simp [hi] }

theorem keepsTo_tblLoad (hi : writesTbl i = true) (k : Nat) (r0 r1 : List (BitVec 16)) :
    KeepsTo i s (tblLoad k r0 r1 t) :=
  { h with tbl := by simp [hi] }

theorem keepsTo_setTblParams (hi : writesTbl i = true) (k : Nat) (cut alpha : Word) :
    KeepsTo i s (setTblParams k cut alpha t) :=
  { h with tbl := by simp [hi] }

end

/-! ### Coding -/

theorem writesInterval_of_carry {i : Instr} (hi : writesCarry i = true) : writesInterval i = true := by
  simp [writesInterval, hi]

theorem writesInterval_of_source {i : Instr} (hi : readsSource i = true) : writesInterval i = true := by
  simp [writesInterval, hi]

section
variable {i : Instr} {s : State} (hc : writesCarry i = true) (hk : writesSink i = true)
include hc hk

theorem keepsTo_encShift {t u : State} (h : KeepsTo i s t) (hu : encShift t = some u) : KeepsTo i s u := by
  have hw := writesInterval_of_carry hc
  rcases encShift_cases hu with ⟨-, rfl⟩ | ⟨d, -, -, rfl⟩ | ⟨d, -, -, rfl⟩ | ⟨d, -, -, -, -, rfl⟩
  · exact keepsTo_setInterval (keepsTo_setCarry h hc _ _) hw _ _
  · exact keepsTo_setInterval (keepsTo_setCarry (keepsTo_writeBytes h hk _) hc _ _) hw _ _
  · exact keepsTo_setInterval (keepsTo_setCarry (keepsTo_writeBytes h hk _) hc _ _) hw _ _
  · exact keepsTo_setInterval (keepsTo_setCarry h hc _ _) hw _ _

theorem keepsTo_encodeBit {p : Nat} {bit : Bool} {t u : State} (h : KeepsTo i s t)
    (hu : encodeBit p bit t = .done u ∨ encodeBit p bit t = .overflow u) : KeepsTo i s u :=
  encodeBit_keeps (P := KeepsTo i s) (fun _ low range h => keepsTo_setInterval h (writesInterval_of_carry hc) low range)
    (fun _ _ => keepsTo_encShift hc hk) h hu

theorem keepsTo_flushShifts {n : Nat} {t u : State} (h : KeepsTo i s t)
    (hu : flushShifts n t = .done u ∨ flushShifts n t = .overflow u) : KeepsTo i s u :=
  flushShifts_keeps (P := KeepsTo i s) (fun _ low range h => keepsTo_setInterval h (writesInterval_of_carry hc) low range)
    (fun _ _ => keepsTo_encShift hc hk) h hu

end

theorem decSplit_src (p : Nat) (s : State) : (decSplit p s).src = s.src := by
  unfold decSplit
  dsimp only
  split
  · rfl
  · rfl

section
variable {i : Instr} {s : State} (hr : readsSource i = true)
include hr

theorem keepsTo_decSplit {t : State} (h : KeepsTo i s t) (p : Nat) : KeepsTo i s (decSplit p t) := by
  unfold decSplit
  dsimp only
  split
  · exact keepsTo_setInterval h (writesInterval_of_source hr) _ _
  · exact keepsTo_setInterval h (writesInterval_of_source hr) _ _

theorem keepsTo_decRefill {bs : List Byte} {t : State} (h : KeepsTo i s t) (hb : t.src = bs) :
    KeepsTo i s (decRefill bs t) := by
  induction bs generalizing t with
  | nil => exact h
  | cons b rest ih =>
    unfold decRefill
    split
    · exact h
    · exact ih (keepsTo_setInterval (keepsTo_takeByte h hr hb) (writesInterval_of_source hr) _ _) rfl

theorem keepsTo_fillWindow (n : Nat) {t : State} (h : KeepsTo i s t) : KeepsTo i s (fillWindow n t).2 := by
  induction n generalizing t with
  | zero => exact h
  | succ n ih =>
    cases hb : t.src with
    | nil => simpa only [fillWindow, readByte_nil hb] using h
    | cons b rest =>
      simp only [fillWindow, readByte_cons hb]
      exact ih (keepsTo_setInterval (keepsTo_takeByte h hr hb) (writesInterval_of_source hr) _ _)

/-- A decode without a context update keeps to what RC_DEC_P may write, one with an update to what DEC_CTX may. -/
theorem keepsTo_settleDecode {t : State} (h : KeepsTo i s t) {u : Option (Nat × BitVec 12)}
    (hu : u = none ∨ writesCtx i = true) (w : Word) (bit : Bool) : KeepsTo i s (settleDecode w bit u t) := by
  have hend := keepsTo_setHold h hr none
  rcases settleDecode_cases w bit u t with ⟨-, he⟩ | ⟨-, -, he⟩ | ⟨-, -, he⟩
  · rw [he]
    refine keepsTo_respondOk ?_ _
    cases u with
    | none => exact hend
    | some x => exact keepsTo_ctxWrite hend (hu.resolve_left nofun) _ _
  · rw [he]
    exact keepsTo_takeFault hend _ _
  · rw [he]
    exact keepsTo_setHold h hr _

theorem keepsTo_decodeWith {p : Nat} {next : Bool → Option (Nat × BitVec 12)}
    (hu : next (decBit p s) = none ∨ writesCtx i = true) (w : Word) : KeepsTo i s (decodeWith w p next s) :=
  keepsTo_settleDecode hr (keepsTo_decRefill hr (keepsTo_decSplit hr (keepsTo_refl i s) p) (decSplit_src p s)) hu w _

end

theorem keepsTo_settleStart {s : State} {r : Nat × State} (h : KeepsTo .rcStartDec s r.2) (w : Word) :
    KeepsTo .rcStartDec s (settleStart w r) := by
  have hend := keepsTo_setHold h rfl none
  rcases settleStart_cases w r with ⟨-, he⟩ | ⟨-, -, he⟩ | ⟨-, -, he⟩
  · rw [he]
    exact keepsTo_respondOk (keepsTo_setMode hend rfl _) _
  · rw [he]
    exact keepsTo_takeFault hend _ _
  · rw [he]
    exact keepsTo_setHold h rfl _

/-- A held command keeps to what RC_START_DEC, or else DEC_CTX, may write (20_memory R74). -/
theorem resumeHold_keepsTo (h : Hold) (s : State) : ∃ i, KeepsTo i s (resumeHold h s) := by
  obtain ⟨w, point⟩ := h
  cases point with
  | startDec left => exact ⟨.rcStartDec, keepsTo_settleStart (keepsTo_fillWindow rfl left (keepsTo_refl _ s)) w⟩
  | refill bit u =>
    exact ⟨.decCtx 0 0, keepsTo_settleDecode rfl (keepsTo_decRefill rfl (keepsTo_refl _ s) rfl) (.inr rfl) w bit⟩

/-! ### Commands -/

section
variable {i : Instr} {s : State}

theorem unlessFaulted_keepsTo {w : Word} {body : Result} (h : Ensures (KeepsTo i s) body) :
    Ensures (KeepsTo i s) (unlessFaulted w s body) :=
  ensures_unlessFaulted (fun _ => keepsTo_takeFault (keepsTo_refl i s) _ _) fun _ => h

theorem check_keepsTo {p : Prop} [Decidable p] {w : Word} {c : Cause} {rest : Result} (h : Ensures (KeepsTo i s) rest) :
    Ensures (KeepsTo i s) (if p then raiseFault w c s else rest) :=
  ensures_check (fun _ => keepsTo_takeFault (keepsTo_refl i s) _ _) fun _ => h

theorem checkNext_keepsTo {t : Nat} {st : BitVec 12} {w : Word} {rest : BitVec 12 × BitVec 12 → Result}
    (h : ∀ n, Ensures (KeepsTo i s) (rest n)) :
    Ensures (KeepsTo i s) (match checkNext s t st with | .error c => raiseFault w c s | .ok n => rest n) :=
  ensures_checkNext (fun _ _ => keepsTo_takeFault (keepsTo_refl i s) _ _) fun n _ => h n

/-- A command that encodes keeps to its frame when what it still does keeps to it. -/
theorem finishEnc_keepsTo {w : Word} {e : EncEnd} {after : State → State}
    (he : ∀ u, e = .done u ∨ e = .overflow u → KeepsTo i s u) (ha : ∀ u, KeepsTo i s u → KeepsTo i s (after u)) :
    Ensures (KeepsTo i s) (finishEnc w e after) :=
  ensures_finishEnc (fun u hu => keepsTo_respondOk (ha u (he u (.inl hu))) _)
    (fun u hu => keepsTo_takeFault (he u (.inr hu)) _ _)

end

/-- Every command keeps to its frame: it makes its checks, then uses the updates it may use. -/
theorem exec_keepsTo (i : Instr) (s : State) : Ensures (KeepsTo i s) (exec i s) := by
  have h := keepsTo_refl i s
  have hok : ∀ ws, KeepsTo i s (respondOk ws s) := keepsTo_respondOk h
  have hfault : ∀ w c, KeepsTo i s (takeFault w c s) := keepsTo_takeFault h
  cases i with
  | nop => exact ensures_next (hok _)
  | regRead csr =>
    show Ensures _ (execRegRead csr s)
    unfold execRegRead
    split
    · exact ensures_next (hfault _ _)
    · exact ensures_next (hok _)
  | regWrite csr v =>
    exact unlessFaulted_keepsTo <| check_keepsTo <| check_keepsTo <| check_keepsTo <|
      ensures_next (keepsTo_respondOk (keepsTo_setCtrl h rfl v) _)
  | rcStartEnc =>
    have hopen : KeepsTo .rcStartEnc s { setMode .enc s with bytesOut := 0 } :=
      { keepsTo_setMode h rfl .enc with sink := fun _ => ⟨rfl, fun hi => absurd rfl hi⟩ }
    exact unlessFaulted_keepsTo <| ensures_next <|
      keepsTo_respondOk (keepsTo_setCarry (keepsTo_setInterval hopen rfl 0 baseRange) rfl none 0) _
  | rcStartDec =>
    have hopen : KeepsTo .rcStartDec s { setMode .idle s with bytesIn := 0 } :=
      { keepsTo_setMode h rfl .idle with source := nofun }
    exact unlessFaulted_keepsTo <| ensures_next <| keepsTo_settleStart (keepsTo_fillWindow rfl 3
      (keepsTo_setCarry (keepsTo_setInterval hopen rfl 0 baseRange) rfl none 0)) _
  | rcFlush =>
    exact unlessFaulted_keepsTo <| check_keepsTo <| finishEnc_keepsTo
      (fun _ => keepsTo_flushShifts rfl rfl (keepsTo_setInterval h rfl _ _)) (fun _ hu => keepsTo_setMode hu rfl .idle)
  | rcAbort => exact unlessFaulted_keepsTo <| ensures_next (keepsTo_respondOk (keepsTo_setMode h rfl .idle) _)
  | rcEncP bit p =>
    exact unlessFaulted_keepsTo <| check_keepsTo <| check_keepsTo <| finishEnc_keepsTo
      (fun _ => keepsTo_encodeBit rfl rfl h) (fun _ hu => hu)
  | rcDecP p =>
    exact unlessFaulted_keepsTo <| check_keepsTo <| check_keepsTo <| ensures_next (keepsTo_decodeWith rfl (.inl rfl) _)
  | bcClear => exact unlessFaulted_keepsTo <| ensures_next (keepsTo_respondOk (keepsTo_ctxClear h rfl) _)
  | bcSet ctx v =>
    exact unlessFaulted_keepsTo <| check_keepsTo <| check_keepsTo <|
      ensures_next (keepsTo_respondOk (keepsTo_ctxWrite h rfl ctx _) _)
  | bcPut t bit ctx =>
    exact unlessFaulted_keepsTo <| check_keepsTo <| checkNext_keepsTo fun n =>
      ensures_next (keepsTo_respondOk (keepsTo_ctxWrite h rfl ctx _) _)
  | tblBuild t cut alpha =>
    refine unlessFaulted_keepsTo <| check_keepsTo <| check_keepsTo <| ensures_next <|
      keepsTo_respondOk (keepsTo_setTblParams ?_ rfl t _ alpha) _
    split
    · exact keepsTo_tblLoad h rfl t _ _
    · exact keepsTo_tblLoad h rfl t _ _
  | tblWrite t b st v =>
    exact unlessFaulted_keepsTo <| check_keepsTo <| check_keepsTo <|
      ensures_next (keepsTo_respondOk (keepsTo_setTblParams (keepsTo_tblPut h rfl t st b _) rfl t 0 0) _)
  | tblRead t b st =>
    refine unlessFaulted_keepsTo <| check_keepsTo ?_
    split
    · exact ensures_next (hfault _ _)
    · exact ensures_next (hok _)
  | encCtx t bit ctx =>
    exact unlessFaulted_keepsTo <| check_keepsTo <| check_keepsTo <| checkNext_keepsTo fun n => finishEnc_keepsTo
      (fun _ => keepsTo_encodeBit rfl rfl h) (fun _ hu => keepsTo_ctxWrite hu rfl ctx _)
  | decCtx t ctx =>
    exact unlessFaulted_keepsTo <| check_keepsTo <| check_keepsTo <| checkNext_keepsTo fun n =>
      ensures_next (keepsTo_decodeWith rfl (.inr rfl) _)
  | yccInit np min0 max0 min1 max1 min2 max2 =>
    refine unlessFaulted_keepsTo ?_
    split
    · exact check_keepsTo (ensures_next (keepsTo_respondOk (keepsTo_setColour h rfl ..) _))
    · exact ensures_next (keepsTo_respondOk (keepsTo_setColour h rfl ..) _)
  | _ => exact unlessFaulted_keepsTo (by simp [hok, hfault])

/-- Settles O21: the frame of every command, with CTX and TBL read entry by entry. -/
theorem onlyNamedCommandsWriteState : Obligations.OnlyNamedCommandsWriteState := by
  intro i s t ht
  have h := exec_keepsTo i s t ht
  refine ⟨h.cfg, h.cmd, h.srcEof, h.mode, h.colour, h.ctrl, h.interval, h.carry, h.sink, h.source,
    fun hi => ctxRead_congr (h.ctx hi), fun hi => ?_⟩
  obtain ⟨htbl, hcut, halpha⟩ := h.tbl hi
  simp [tblEntry, tblCutOf, tblAlphaOf, htbl, hcut, halpha]

/-- The words left after a command are the end of the words before it (20_memory R71). -/
theorem decode_suffix {ws rest : List Word}
    (h : (∃ w why, decode ws = .illegal w why rest) ∨ ∃ i, decode ws = .command i rest) : rest <:+ ws := by
  cases ws with
  | nil => simp [decode] at h
  | cons v ws =>
    cases hr : selectRow v with
    | none =>
      obtain rfl : ws = rest := by simpa [decode, hr] using h
      exact List.suffix_cons v ws
    | some r =>
      by_cases hn : ws.length < r.nargs
      · simp [decode, hr, hn] at h
      · obtain rfl : ws.drop r.nargs = rest := by simpa [decode, hr, hn] using h
        exact (List.drop_suffix _ ws).trans (List.suffix_cons v ws)

/-- What a step may do with the ports and never changes: the parameters and `src_eof`. -/
def UsesPortsInOrder (s t : State) : Prop :=
  t.cfg = s.cfg ∧ t.srcEof = s.srcEof ∧ t.cmd <:+ s.cmd ∧ t.src <:+ s.src ∧ s.snk <+: t.snk ∧ s.resp <+: t.resp

/-- What keeps to the frame of a command, after words were taken from the front of the command port, uses every port in
order. -/
theorem KeepsTo.usesPortsInOrder {i : Instr} {s t : State} {rest : List Word} (h : KeepsTo i (takeWords rest s) t)
    (hrest : rest <:+ s.cmd) : UsesPortsInOrder s t :=
  ⟨h.cfg, h.srcEof, h.cmd ▸ hrest, h.taken, h.written, h.answers⟩

/-- Settles O10: every command, held or not, keeps to its frame, once the words it was decoded from are taken. -/
theorem stepUsesPortsInOrder : Obligations.StepUsesPortsInOrder := by
  intro s
  refine ensures_step (P := UsesPortsInOrder s) (fun h _ => ?_) ?_ (fun w why rest _ hd => ?_) (fun i rest _ hd => ?_)
  · obtain ⟨i, hi⟩ := resumeHold_keepsTo h s
    exact hi.usesPortsInOrder List.suffix_rfl
  · exact (keepsTo_refl .nop s).usesPortsInOrder List.suffix_rfl
  · exact (keepsTo_takeFault (keepsTo_refl .nop _) w _).usesPortsInOrder (decode_suffix (.inl ⟨w, why, hd⟩))
  · exact fun t ht => (exec_keepsTo i _ t ht).usesPortsInOrder (decode_suffix (.inr ⟨i, hd⟩))

end Sys2Proof.Machine

/-! SUPPORT. The register map: REG_READ, REG_WRITE of CTRL, and the fields of the words read (10_state R35 to R45). -/

namespace Sys2Proof.Machine

/-! ### REG_READ and REG_WRITE -/

theorem exec_regRead_mapped {s : State} {n : Nat} {v : Word} (h : csrRead s n = some v) :
    exec (.regRead n) s = .next { s with resp := s.resp ++ [.ok [v]] } := by
  show execRegRead n s = _
  rw [execRegRead, h]
  rfl

theorem exec_regRead_unmapped {s : State} {n : Nat} (h : csrRead s n = none) :
    exec (.regRead n) s = raiseFault (encodeWord (.regRead n)) .badIndex s := by
  show execRegRead n s = _
  rw [execRegRead, h]

/-- Settles O23: the numbers below 0x0F by the map itself, the two arrays of parameter registers by their index. -/
theorem regReadAnswersEachRegister : Obligations.RegReadAnswersEachRegister := by
  intro s hn
  have reads {n : Nat} {v : Word} := exec_regRead_mapped (s := s) (n := n) (v := v)
  exact ⟨reads rfl, reads rfl, reads rfl, reads rfl, reads rfl, reads rfl, reads rfl, reads rfl, reads rfl, reads rfl,
    reads rfl, reads rfl, reads rfl, reads rfl, reads rfl,
    fun t ht => ⟨reads (csrRead_tblCut s ht), reads (csrRead_tblAlpha s hn ht)⟩⟩

/-- Settles O24: a number the map does not have raises BAD_INDEX, recorded if it is the first fault. -/
theorem regReadOfUnmappedFaults : Obligations.RegReadOfUnmappedFaults := by
  intro s n hn hmap
  have h := exec_regRead_unmapped ((csrRead_eq_none_iff s hn n).2 hmap)
  refine ⟨fun hf => ⟨_, h, takeFault_first hf⟩, fun hf => ?_⟩
  rw [h, raiseFault, takeFault_later hf]

/-- Settles O26: CTRL is mapped, it is the one register that may be written, and a value below 2 has no reserved bit. -/
theorem regWriteSetsCtrl : Obligations.RegWriteSetsCtrl := by
  intro s v hf hv
  have hmap : csrRead s 0x03 ≠ none := Option.some_ne_none s.ctrl
  have hbits : v.toNat / 2 = 0 := Nat.div_eq_of_lt hv
  refine (unlessFaulted_of_ok hf).trans ?_
  rw [if_neg hmap, if_neg (not_not.2 rfl), if_neg (not_not.2 hbits)]
  rfl

/-! ### Fields -/

theorem modeCode_lt (m : Mode) : modeCode m < 4 := by cases m <;> decide

theorem causeCode_lt (c : Cause) : causeCode c < 16 := by cases c <;> decide

/-- A flag in a register is 1 when it is set. -/
theorem toNat_eq_ite (b : Bool) : b.toNat = if b then 1 else 0 := Bool.cond_eq_ite b 1 0

/-- STATUS as the sum of its fields, which do not overlap (10_state R36). -/
theorem statusWord_toNat (s : State) :
    (statusWord s).toNat = modeCode s.mode + s.faulted.toNat * 4 + s.attached.toNat * 8 + causeCode s.cause * 256 := by
  have hm := modeCode_lt s.mode
  have hf := s.faulted.toNat_le
  have ha := s.attached.toNat_le
  have hc := causeCode_lt s.cause
  rw [statusWord, BitVec.toNat_ofNat]
  omega

/-- CONFIG as the sum of its fields for legal parameters (10_state R42). -/
theorem configWord_toNat {p : Params} (hp : p.Legal) :
    (configWord p).toNat = (p.nctx - 1) * 65536 + (p.ntab - 1) * 2 + p.pBit.toNat := by
  have hx := hp.nctx_le
  have ht := hp.ntab_le
  have hb := p.pBit.toNat_le
  rw [configWord, BitVec.toNat_ofNat]
  omega

/-- Settles O25: every field of STATUS and CONFIG is read off the sum that the word is. -/
theorem registerWordsHaveTheirFields : Obligations.RegisterWordsHaveTheirFields := by
  intro s
  refine ⟨?_, fun hp => ?_, fun hd => by rw [hd]; rfl, fun b hb => ?_, by decide⟩
  · have hm := modeCode_lt s.mode
    have hf := s.faulted.toNat_le
    have ha := s.attached.toNat_le
    have hc := causeCode_lt s.cause
    show (statusWord s).toNat % 4 = modeCode s.mode ∧ _
    rw [statusWord_toNat, ← toNat_eq_ite, ← toNat_eq_ite]
    omega
  · have ht := hp.ntab_le
    have hb := s.cfg.pBit.toNat_le
    rw [configWord_toNat hp, ← toNat_eq_ite]
    omega
  · rw [hb, delayedWord, BitVec.toNat_ofNat]
    exact Nat.mod_eq_of_lt (by omega)

end Sys2Proof.Machine

/-! SUPPORT. What a step does with the words on the command port and with a held command (20_memory R71, R74), and how a
command that reads the source ends, holds and goes on (R72, R73, R74). -/

namespace Sys2Proof.Machine

/-! ### One step -/

theorem step_of_hold {s : State} {h : Hold} (hh : s.hold = some h) : step s = .next (resumeHold h s) := by
  simp only [step, hh]

theorem step_of_wait {s : State} (hh : s.hold = none) (hd : decode s.cmd = .wait) : step s = .next s := by
  simp only [step, hh, hd]

theorem step_of_command {s : State} {i : Instr} {rest : List Word} (hh : s.hold = none)
    (hd : decode s.cmd = .command i rest) : step s = exec i (takeWords rest s) := by
  simp only [step, hh, hd]

/-- Decoding a command word that some of its arguments have not followed yet. -/
theorem decode_of_short {w : Word} {ws : List Word} {r : OpRow} (h : selectRow w = some r) (hn : ws.length < r.nargs) :
    decode (w :: ws) = .wait := by
  simp only [decode, h, if_pos hn]

/-- Settles O5: the step takes the words and runs the command. -/
theorem stepRunsTheDecodedCommand : Obligations.StepRunsTheDecodedCommand :=
  fun _ _ _ => step_of_command

/-- Settles O7: neither no word nor a word short of its arguments is a command, so the step waits. -/
theorem stepWaitsForAllWords : Obligations.StepWaitsForAllWords := by
  intro s hh hwords
  refine step_of_wait hh ?_
  rcases hwords with hnil | ⟨w, ws, r, hcmd, hr, hn⟩
  · rw [hnil, decode]
  · rw [hcmd]
    exact decode_of_short hr hn

/-! ### A held command with the source empty -/

/-- The command that holds at `h` cannot end before its next `ReadByte` (20_memory R74). -/
def NeedsByte (h : Hold) (s : State) : Prop :=
  match h.point with
  | .startDec left => left ≠ 0
  | .refill _ _ => s.rcRange.toNat ≤ minRange

theorem needsByte_of_holdOk {h : Hold} {s : State} (hok : holdOk h s) : NeedsByte h s := by
  obtain ⟨w, point⟩ := h
  cases point with
  | startDec left =>
    obtain ⟨-, hleft, -⟩ := hok
    exact Nat.ne_of_gt hleft
  | refill bit u =>
    obtain ⟨-, -, hrange, -⟩ := hok
    exact hrange

/-- `ReadByte` on an empty source (20_memory R73): the fault STREAM_TRUNCATED once it has ended, and a hold at the same
point until then. -/
theorem resumeHold_of_empty {h : Hold} {s : State} (hn : NeedsByte h s) (hsrc : s.src = []) :
    resumeHold h s =
      if s.srcEof then takeFault h.word .streamTruncated (setHold none s) else setHold (some h) s := by
  obtain ⟨w, point⟩ := h
  cases point with
  | startDec left =>
    obtain ⟨k, rfl⟩ := Nat.exists_eq_succ_of_ne_zero hn
    have hfill : fillWindow (k + 1) s = (k + 1, s) := by rw [fillWindow, readByte_nil hsrc]
    show settleStart w (fillWindow (k + 1) s) = _
    rw [hfill, settleStart, if_neg hn]
  | refill bit u =>
    show settleDecode w bit u (decRefill s.src s) = _
    rw [hsrc, decRefill, settleDecode, if_neg (Nat.not_lt.2 hn)]

/-- Settles O8: under the invariant a held command needs a byte, and without one it holds where it held. -/
theorem stepHoldsWithoutBytes : Obligations.StepHoldsWithoutBytes := by
  intro s h hs hh hsrc heof
  obtain ⟨-, hok⟩ := hs.hold h hh
  rw [step_of_hold hh, resumeHold_of_empty (needsByte_of_holdOk hok) hsrc, heof]
  show Host.Outcome.next { s with hold := some h } = .next s
  rw [← hh]

/-! ### More bytes, or the end of the source -/

/-- The host appends `bs` to the source, and `src_eof` is then `eof` (20_memory R73). -/
def supply (bs : List Byte) (eof : Bool) (s : State) : State := { s with src := s.src ++ bs, srcEof := eof }

theorem hostFeed_eq_supply (bs : List Byte) (s : State) : hostFeed bs s = supply bs s.srcEof s := rfl

theorem hostSetEof_eq_supply (s : State) : hostSetEof s = supply [] true s := by
  simp only [hostSetEof, supply, List.append_nil]

/-- RC_START_DEC reads its window from the longer source as it goes on where the shorter one ended. -/
theorem fillWindow_supply (bs : List Byte) (eof : Bool) (n : Nat) (s : State) :
    fillWindow n (supply bs eof s) = fillWindow (fillWindow n s).1 (supply bs eof (fillWindow n s).2) := by
  induction n generalizing s with
  | zero => rfl
  | succ n ih =>
    cases hsrc : s.src with
    | nil => simp only [fillWindow, readByte_nil hsrc]
    | cons b rest =>
      have hlong : (supply bs eof s).src = b :: (rest ++ bs) := by rw [supply, hsrc, List.cons_append]
      simp only [fillWindow, readByte_cons hsrc, readByte_cons hlong]
      exact ih (pushLow b (takeByte rest s))

/-- DecRefill takes a byte for a narrow interval (40_range_coder R127). -/
theorem decRefill_narrow {s : State} (h : ¬ minRange < s.rcRange.toNat) (b : Byte) (rest : List Byte) :
    decRefill (b :: rest) s = decRefill rest (refillShift b (takeByte rest s)) :=
  if_neg h

/-- DecRefill likewise (40_range_coder R127). -/
theorem decRefill_supply (bs : List Byte) (eof : Bool) {xs : List Byte} {s : State} (hsrc : s.src = xs) :
    decRefill (xs ++ bs) (supply bs eof s) =
      decRefill ((decRefill xs s).src ++ bs) (supply bs eof (decRefill xs s)) := by
  induction xs generalizing s with
  | nil => rw [decRefill, hsrc]
  | cons b rest ih =>
    by_cases hw : minRange < s.rcRange.toNat
    · rw [decRefill_wide hw, hsrc]
    · rw [decRefill_narrow hw, List.cons_append, decRefill_narrow (s := supply bs eof s) hw]
      exact ih (s := refillShift b (takeByte rest s)) rfl

/-- The mark of a hold changes nothing of what a command reads. -/
theorem fillWindow_setHold (o : Option Hold) (n : Nat) (s : State) :
    fillWindow n (setHold o s) = ((fillWindow n s).1, setHold o (fillWindow n s).2) := by
  induction n generalizing s with
  | zero => rfl
  | succ n ih =>
    cases hsrc : s.src with
    | nil => simp only [fillWindow, readByte_nil hsrc, readByte_nil (s := setHold o s) hsrc]
    | cons b rest =>
      simp only [fillWindow, readByte_cons hsrc, readByte_cons (s := setHold o s) hsrc]
      exact ih (pushLow b (takeByte rest s))

theorem decRefill_setHold (o : Option Hold) (xs : List Byte) (s : State) :
    decRefill xs (setHold o s) = setHold o (decRefill xs s) := by
  induction xs generalizing s with
  | nil => rfl
  | cons b rest ih =>
    by_cases hw : minRange < s.rcRange.toNat
    · rw [decRefill_wide hw, decRefill_wide (s := setHold o s) hw]
    · rw [decRefill_narrow hw, decRefill_narrow (s := setHold o s) hw]
      exact ih (refillShift b (takeByte rest s))

/-- A command that goes on ends or holds anew, so the mark it was held by is lost. -/
theorem resumeHold_setHold (h : Hold) (o : Option Hold) (s : State) : resumeHold h (setHold o s) = resumeHold h s := by
  obtain ⟨w, point⟩ := h
  cases point with
  | startDec left =>
    show settleStart w (fillWindow left (setHold o s)) = settleStart w (fillWindow left s)
    rw [fillWindow_setHold]
    rfl
  | refill bit u =>
    show settleDecode w bit u (decRefill s.src (setHold o s)) = settleDecode w bit u (decRefill s.src s)
    rw [decRefill_setHold]
    rfl

/-! ### How a command that reads the source ends or holds -/

theorem frameSource.resp {s t : State} (h : frameSource s t) : t.resp = s.resp := by rw [h]

/-- Going on at `h` in `s` led to a hold at `h'` in `t`: the source was used up and has not ended, no answer was given,
and the command goes on from there as it would have gone on from `h` with the late bytes or the end of the source
(20_memory R74). -/
structure HoldsAnew (h : Hold) (s : State) (h' : Hold) (t : State) : Prop where
  hold : t.hold = some h'
  word : h'.word = h.word
  needs : NeedsByte h' t
  src : t.src = []
  srcEof : t.srcEof = false
  resp : t.resp = s.resp
  faulted : t.faulted = s.faulted
  resume : ∀ bs eof, resumeHold h' (supply bs eof t) = resumeHold h (supply bs eof s)

/-- The command gave one answer and holds no longer (20_memory R72). -/
def Ended (s t : State) : Prop := t.hold = none ∧ ∃ r, answered s t r

/-- RC_START_DEC ends, or holds with the bytes of its window that are still to be read. -/
theorem settleStart_ended_or_holds (w : Word) (left : Nat) (s : State) :
    Ended s (settleStart w (fillWindow left s)) ∨
      ∃ h', HoldsAnew ⟨w, .startDec left⟩ s h' (settleStart w (fillWindow left s)) := by
  obtain ⟨hframe, -, -, -, hend⟩ := fillWindow_spec left s
  have hresp := hframe.resp
  rcases settleStart_cases w (fillWindow left s) with ⟨-, he⟩ | ⟨-, -, he⟩ | ⟨hleft, heof, he⟩
  · rw [he]
    exact .inl ⟨rfl, _, congrArg (· ++ _) hresp⟩
  · rw [he]
    exact .inl ⟨rfl, _, congrArg (· ++ _) hresp⟩
  · rw [he]
    refine .inr ⟨_, rfl, rfl, hleft, hend.resolve_left hleft, heof, hresp, hframe.session.faulted, fun bs eof => ?_⟩
    refine (resumeHold_setHold _ _ (supply bs eof (fillWindow left s).2)).trans ?_
    exact congrArg (settleStart w) (fillWindow_supply bs eof left s).symm

/-- A decode ends, or holds with an interval still to be scaled. -/
theorem settleDecode_ended_or_holds (w : Word) (bit : Bool) (u : Option (Nat × BitVec 12)) (s : State) :
    Ended s (settleDecode w bit u (decRefill s.src s)) ∨
      ∃ h', HoldsAnew ⟨w, .refill bit u⟩ s h' (settleDecode w bit u (decRefill s.src s)) := by
  have hframe := decRefill_frame s.src s
  have hresp := hframe.resp
  rcases settleDecode_cases w bit u (decRefill s.src s) with ⟨-, he⟩ | ⟨-, -, he⟩ | ⟨hrange, heof, he⟩
  · rw [he]
    refine .inl ?_
    cases u with
    | none => exact ⟨rfl, _, congrArg (· ++ _) hresp⟩
    | some x => exact ⟨rfl, _, congrArg (· ++ _) hresp⟩
  · rw [he]
    exact .inl ⟨rfl, _, congrArg (· ++ _) hresp⟩
  · rw [he]
    have hsrc := (decRefill_end (s := s) rfl).resolve_left (Nat.not_lt.2 hrange)
    refine .inr ⟨_, rfl, rfl, hrange, hsrc, heof, hresp, hframe.session.faulted, fun bs eof => ?_⟩
    refine (resumeHold_setHold _ _ (supply bs eof (decRefill s.src s))).trans ?_
    exact congrArg (settleDecode w bit u) (decRefill_supply bs eof (s := s) rfl).symm

theorem resumeHold_ended_or_holds (h : Hold) (s : State) :
    Ended s (resumeHold h s) ∨ ∃ h', HoldsAnew h s h' (resumeHold h s) := by
  obtain ⟨w, point⟩ := h
  cases point with
  | startDec left => exact settleStart_ended_or_holds w left s
  | refill bit u => exact settleDecode_ended_or_holds w bit u s

/-! ### Commands -/

/-- The command `i` in `s` gets as far as reading the source: it then goes on from `h` in `u`, and would do so with any
bytes and any `src_eof` that the host supplies. -/
structure ReadsFrom (i : Instr) (s : State) (h : Hold) (u : State) : Prop where
  reads : readsSource i = true
  word : h.word = encodeWord i
  resp : u.resp = s.resp
  faulted : u.faulted = false
  exec_supply : ∀ bs eof, exec i (supply bs eof s) = .next (resumeHold h (supply bs eof u))

/-- The command `i` in `s` left `t`: it ended with one answer, or it got as far as reading the source. -/
def EndedOrReads (i : Instr) (s t : State) : Prop := Ended s t ∨ ∃ h u, ReadsFrom i s h u ∧ t = resumeHold h u

/-- The registers as RC_START_DEC sets them before it reads (40_range_coder R129). -/
def openDecoder (s : State) : State := setCarry none 0 (setInterval 0 baseRange { setMode .idle s with bytesIn := 0 })

theorem exec_rcStartDec_of_ok {s : State} (hf : s.faulted = false) :
    exec .rcStartDec s = .next (resumeHold ⟨encodeWord .rcStartDec, .startDec 3⟩ (openDecoder s)) :=
  unlessFaulted_of_ok hf

/-- DecodeBit scales the interval of its bit as a held decode does (40_range_coder R126). -/
theorem decodeWith_eq_resumeHold (w : Word) (p : Nat) (next : Bool → Option (Nat × BitVec 12)) (s : State) :
    decodeWith w p next s = resumeHold ⟨w, .refill (decBit p s) (next (decBit p s))⟩ (decSplit p s) := by
  show _ = settleDecode w (decBit p s) (next (decBit p s)) (decRefill (decSplit p s).src (decSplit p s))
  rw [decSplit_src, decodeWith]

theorem decSplit_supply (p : Nat) (bs : List Byte) (eof : Bool) (s : State) :
    decSplit p (supply bs eof s) = supply bs eof (decSplit p s) := by
  by_cases h : s.rcRange.toNat - chance p s.rcRange.toNat ≤ s.rcLow.toNat
  · simp [decSplit, supply, h, setInterval]
  · simp [decSplit, supply, h, setInterval]

theorem exec_rcDecP_of_ok {s : State} {p : Nat} (hf : s.faulted = false) (hm : s.mode = .dec) (hp : p ≠ 0) :
    exec (.rcDecP p) s = .next (decodeWith (encodeWord (.rcDecP p)) p (fun _ => none) s) := by
  refine (unlessFaulted_of_ok hf).trans ?_
  rw [if_neg (not_not.2 hm), if_neg hp]

theorem exec_decCtx_of_ok {s : State} {t ctx : Nat} {n : BitVec 12 × BitVec 12} (hf : s.faulted = false)
    (hi : ¬ (!indexOk s t ctx) = true) (hm : s.mode = .dec) (hn : checkNext s t (ctxRead s ctx) = .ok n) :
    exec (.decCtx t ctx) s = .next (decodeWith (encodeWord (.decCtx t ctx)) (ctxRead s ctx).toNat
      (fun bit => some (ctx, nextOf n bit)) s) := by
  refine (unlessFaulted_of_ok hf).trans ?_
  rw [if_neg hi, if_neg (not_not.2 hm), hn]

/-- A command that decodes a bit whatever the source holds reads from the point where that bit is found. -/
theorem endedOrReads_decodeWith {i : Instr} {s : State} {p : Nat} {next : Bool → Option (Nat × BitVec 12)}
    (hr : readsSource i = true) (hf : s.faulted = false)
    (he : ∀ bs eof, exec i (supply bs eof s) = .next (decodeWith (encodeWord i) p next (supply bs eof s))) :
    EndedOrReads i s (decodeWith (encodeWord i) p next s) := by
  have hframe := decSplit_frame p s
  have hfaulted := hframe.session.faulted.trans hf
  refine .inr ⟨_, _, ⟨hr, rfl, hframe.resp, hfaulted, fun bs eof => ?_⟩, decodeWith_eq_resumeHold ..⟩
  rw [he, decodeWith_eq_resumeHold, decSplit_supply]
  rfl

section
variable {i : Instr} {s : State} (hh : s.hold = none)
include hh

theorem ended_takeFault (w : Word) (c : Cause) : EndedOrReads i s (takeFault w c s) := .inl ⟨hh, _, rfl⟩

theorem ended_respondOk {t : State} (hhold : t.hold = s.hold) (hresp : t.resp = s.resp) (ws : List Word) :
    EndedOrReads i s (respondOk ws t) :=
  .inl ⟨hhold.trans hh, _, congrArg (· ++ _) hresp⟩

theorem unlessFaulted_endedOrReads {w : Word} {body : Result}
    (h : s.faulted = false → Ensures (EndedOrReads i s) body) : Ensures (EndedOrReads i s) (unlessFaulted w s body) :=
  ensures_unlessFaulted (fun _ => ended_takeFault hh _ _) h

theorem check_endedOrReads {p : Prop} [Decidable p] {w : Word} {c : Cause} {rest : Result}
    (h : ¬ p → Ensures (EndedOrReads i s) rest) : Ensures (EndedOrReads i s) (if p then raiseFault w c s else rest) :=
  ensures_check (fun _ => ended_takeFault hh _ _) h

theorem checkNext_endedOrReads {t : Nat} {st : BitVec 12} {w : Word} {rest : BitVec 12 × BitVec 12 → Result}
    (h : ∀ n, checkNext s t st = .ok n → Ensures (EndedOrReads i s) (rest n)) :
    Ensures (EndedOrReads i s) (match checkNext s t st with | .error c => raiseFault w c s | .ok n => rest n) :=
  ensures_checkNext (fun _ _ => ended_takeFault hh _ _) h

/-- A command that encodes writes only the encoder's registers and the sink before it answers. -/
theorem finishEnc_endedOrReads {w : Word} {e : EncEnd} {after : State → State}
    (he : ∀ u, e = .done u ∨ e = .overflow u → frameCoder s u)
    (ha : ∀ u, (after u).hold = u.hold ∧ (after u).resp = u.resp) :
    Ensures (EndedOrReads i s) (finishEnc w e after) := by
  have hkept : ∀ u, frameCoder s u → u.hold = s.hold ∧ u.resp = s.resp := fun u hu => ⟨by rw [hu], by rw [hu]⟩
  refine ensures_finishEnc (fun u hu => ?_) (fun u hu => ?_)
  · obtain ⟨hhold, hresp⟩ := hkept u (he u (.inl hu))
    exact ended_respondOk hh ((ha u).1.trans hhold) ((ha u).2.trans hresp) _
  · obtain ⟨hhold, hresp⟩ := hkept u (he u (.inr hu))
    exact .inl ⟨hhold.trans hh, _, congrArg (· ++ _) hresp⟩

/-- Every command gives one answer, after its checks and its updates, except that three may get as far as reading the
source. Of the others the last case takes those whose checks and updates the simp lemmas of the state see through. -/
theorem exec_endedOrReads (i : Instr) : Ensures (EndedOrReads i s) (exec i s) := by
  cases i with
  | nop => exact ensures_next (.inl ⟨hh, _, rfl⟩)
  | regRead csr =>
    show Ensures _ (execRegRead csr s)
    unfold execRegRead
    split
    · exact ensures_next (ended_takeFault hh _ _)
    · exact ensures_next (.inl ⟨hh, _, rfl⟩)
  | rcStartDec =>
    refine unlessFaulted_endedOrReads hh fun hf => ensures_next <|
      .inr ⟨⟨encodeWord .rcStartDec, .startDec 3⟩, openDecoder s, ?_, rfl⟩
    exact ⟨rfl, rfl, rfl, hf, fun bs eof => exec_rcStartDec_of_ok (s := supply bs eof s) hf⟩
  | rcDecP p =>
    refine unlessFaulted_endedOrReads hh fun hf => check_endedOrReads hh fun hm => check_endedOrReads hh fun hp => ?_
    exact ensures_next <| endedOrReads_decodeWith rfl hf fun bs eof =>
      exec_rcDecP_of_ok (s := supply bs eof s) hf (not_not.1 hm) hp
  | decCtx t ctx =>
    refine unlessFaulted_endedOrReads hh fun hf => check_endedOrReads hh fun hi => check_endedOrReads hh fun hm =>
      checkNext_endedOrReads hh fun n hn => ?_
    exact ensures_next <| endedOrReads_decodeWith rfl hf fun bs eof =>
      exec_decCtx_of_ok (s := supply bs eof s) hf hi (not_not.1 hm) hn
  | rcEncP bit p =>
    exact unlessFaulted_endedOrReads hh fun _ => check_endedOrReads hh fun _ => check_endedOrReads hh fun _ =>
      finishEnc_endedOrReads hh (fun _ => encodeBit_frame) fun _ => ⟨rfl, rfl⟩
  | encCtx t bit ctx =>
    exact unlessFaulted_endedOrReads hh fun _ => check_endedOrReads hh fun _ => check_endedOrReads hh fun _ =>
      checkNext_endedOrReads hh fun _ _ => finishEnc_endedOrReads hh (fun _ => encodeBit_frame) fun _ => ⟨rfl, rfl⟩
  | rcFlush =>
    exact unlessFaulted_endedOrReads hh fun _ => check_endedOrReads hh fun _ =>
      finishEnc_endedOrReads hh (fun _ hu => (setInterval_frame _ _ _).trans (flushShifts_frame hu))
        fun _ => ⟨rfl, rfl⟩
  | bcPut t bit ctx =>
    exact unlessFaulted_endedOrReads hh fun _ => check_endedOrReads hh fun _ => checkNext_endedOrReads hh fun _ _ =>
      ensures_next (.inl ⟨hh, _, rfl⟩)
  | tblBuild t cut alpha =>
    refine unlessFaulted_endedOrReads hh fun _ => check_endedOrReads hh fun _ => check_endedOrReads hh fun _ => ?_
    dsimp only
    split
    · exact ensures_next (.inl ⟨hh, _, rfl⟩)
    · exact ensures_next (.inl ⟨hh, _, rfl⟩)
  | tblRead t b st =>
    refine unlessFaulted_endedOrReads hh fun _ => check_endedOrReads hh fun _ => ?_
    split
    · exact ensures_next (ended_takeFault hh _ _)
    · exact ensures_next (.inl ⟨hh, _, rfl⟩)
  | _ =>
    exact unlessFaulted_endedOrReads hh fun _ => by simp [EndedOrReads, Ended, answered, hh]

end

/-- Settles O20: what reads the source goes on as a held command does, which ends or holds. -/
theorem everyCommandAnswersOnce : Obligations.EveryCommandAnswersOnce := by
  intro i s t hh ht
  rcases exec_endedOrReads hh i t ht with hend | ⟨h, u, hreads, rfl⟩
  · exact .inl hend
  · rcases resumeHold_ended_or_holds h u with ⟨hnone, r, hr⟩ | ⟨h', holds⟩
    · exact .inl ⟨hnone, r, hr.trans (congrArg (· ++ _) hreads.resp)⟩
    · have hsome := holds.hold.trans_ne (Option.some_ne_none h')
      exact .inr ⟨hsome, hreads.reads, holds.resp.trans hreads.resp, holds.src, holds.srcEof⟩

/-- A command that holds got as far as reading the source, and used it up. -/
theorem exec_holds {i : Instr} {s t : State} (hh : s.hold = none) (ht : exec i s = .next t) (hhold : t.hold ≠ none) :
    ∃ h u h', ReadsFrom i s h u ∧ HoldsAnew h u h' t := by
  rcases exec_endedOrReads hh i t ht with ⟨hnone, -⟩ | ⟨h, u, hreads, rfl⟩
  · exact absurd hnone hhold
  · rcases resumeHold_ended_or_holds h u with ⟨hnone, -⟩ | ⟨h', holds⟩
    · exact absurd hnone hhold
    · exact ⟨h, u, h', hreads, holds⟩

/-- Whatever the host supplies to a held command could have been there before it started (20_memory R73, R74). -/
theorem step_supply_of_holds {i : Instr} {s t u : State} {h h' : Hold} (hreads : ReadsFrom i s h u)
    (holds : HoldsAnew h u h' t) (bs : List Byte) (eof : Bool) : step (supply bs eof t) = exec i (supply bs eof s) := by
  rw [step_of_hold (s := supply bs eof t) holds.hold, holds.resume, hreads.exec_supply]

/-- Settles O9: late bytes and the end of the source are both supplied to a held command; an empty source that has ended
faults. -/
theorem heldCommandContinuesFromTheSamePoint : Obligations.HeldCommandContinuesFromTheSamePoint := by
  intro i s t bs hh heof ht hhold
  obtain ⟨h, u, h', hreads, holds⟩ := exec_holds hh ht hhold
  have hstep := step_supply_of_holds hreads holds
  refine ⟨?_, ?_, ?_⟩
  · rw [hostFeed_eq_supply, hostFeed_eq_supply, holds.srcEof, heof]
    exact hstep bs false
  · rw [hostSetEof_eq_supply, hostSetEof_eq_supply]
    exact hstep [] true
  · have hfault : resumeHold h' (hostSetEof t) = takeFault h'.word .streamTruncated (setHold none (hostSetEof t)) :=
      (resumeHold_of_empty (s := hostSetEof t) holds.needs holds.src).trans (if_pos rfl)
    have hfirst : (setHold none (hostSetEof t)).faulted = false := holds.faulted.trans hreads.faulted
    rw [step_of_hold (s := hostSetEof t) holds.hold, hfault, takeFault_first hfirst, holds.word, hreads.word]
    rfl

end Sys2Proof.Machine

/-! SUPPORT. Fields of words: what the fields of an encoded word read, what a row's mask fixes of a word, and
that a word is put together from its fields (30_encoding R94 to R102, R108). -/

namespace Sys2Proof

/-! ### Fields of encoded words -/

theorem bitOf_eq_of_bitsOf {w : Word} {k : Nat} {b : Bool} (h : bitsOf w k k = b.toNat) : bitOf w k = b := by
  rw [bitOf, h]
  cases b <;> rfl

/-- A field of one bit is 0 or 1 (30_encoding R108). -/
theorem toNat_bitOf (w : Word) (k : Nat) : (bitOf w k).toNat = bitsOf w k k := by
  have h := bitsOf_lt w k k
  rw [Nat.add_sub_cancel_left] at h
  obtain h0 | h1 : bitsOf w k k = 0 ∨ bitsOf w k k = 1 := by omega
  · rw [bitOf, h0]; rfl
  · rw [bitOf, h1]; rfl

theorem fieldLow8_formatFR {opc n : Nat} (hn : n < 256) : fieldLow8 (formatFR opc n) = n := by
  rw [fieldLow8, bitsOf, formatFR, BitVec.toNat_ofNat]
  omega

theorem fieldP_formatFP {opc p : Nat} {bit : Bool} (hp : p < 4096) : fieldP (formatFP opc bit p) = p := by
  rw [fieldP, bitsOf, formatFP, BitVec.toNat_ofNat]
  omega

theorem bitOf_formatFP {opc p : Nat} {bit : Bool} (hp : p < 4096) : bitOf (formatFP opc bit p) 12 = bit := by
  apply bitOf_eq_of_bitsOf
  have hb := bit.toNat_le
  rw [bitsOf, formatFP, BitVec.toNat_ofNat]
  omega

theorem fieldCtx_formatFC {opc t ctx : Nat} {bit : Bool} (hctx : ctx < 65536) :
    fieldCtx (formatFC opc t bit ctx) = ctx := by
  rw [fieldCtx, bitsOf, formatFC, BitVec.toNat_ofNat]
  omega

theorem fieldTsel_formatFC {opc t ctx : Nat} {bit : Bool} (ht : t < 16) (hctx : ctx < 65536) :
    fieldTsel (formatFC opc t bit ctx) = t := by
  have hb := bit.toNat_le
  rw [fieldTsel, bitsOf, formatFC, BitVec.toNat_ofNat]
  omega

theorem bitOf_formatFC {opc t ctx : Nat} {bit : Bool} (hctx : ctx < 65536) : bitOf (formatFC opc t bit ctx) 16 = bit := by
  apply bitOf_eq_of_bitsOf
  have hb := bit.toNat_le
  rw [bitsOf, formatFC, BitVec.toNat_ofNat]
  omega

theorem fieldTsel_formatFB {opc t cut : Nat} (ht : t < 16) (hcut : cut < 16) : fieldTsel (formatFB opc t cut) = t := by
  rw [fieldTsel, bitsOf, formatFB, BitVec.toNat_ofNat]
  omega

theorem fieldCut_formatFB {opc t cut : Nat} (hcut : cut < 16) : fieldCut (formatFB opc t cut) = cut := by
  rw [fieldCut, bitsOf, formatFB, BitVec.toNat_ofNat]
  omega

theorem fieldTsel_formatFE {opc t st : Nat} {b : Bool} (ht : t < 16) (hst : st < 4096) :
    fieldTsel (formatFE opc t b st) = t := by
  have hb := b.toNat_le
  rw [fieldTsel, bitsOf, formatFE, BitVec.toNat_ofNat]
  omega

theorem bitOf_formatFE {opc t st : Nat} {b : Bool} (hst : st < 4096) : bitOf (formatFE opc t b st) 12 = b := by
  apply bitOf_eq_of_bitsOf
  have hb := b.toNat_le
  rw [bitsOf, formatFE, BitVec.toNat_ofNat]
  omega

theorem fieldP_formatFE {opc t st : Nat} {b : Bool} (hst : st < 4096) : fieldP (formatFE opc t b st) = st := by
  rw [fieldP, bitsOf, formatFE, BitVec.toNat_ofNat]
  omega

/-! ### Words that match a row -/

theorem bitsOf_and (w v : Word) (hi lo : Nat) : bitsOf (w &&& v) hi lo = bitsOf w hi lo &&& bitsOf v hi lo := by
  simp only [bitsOf, BitVec.toNat_and, Nat.and_div_two_pow, Nat.and_mod_two_pow]

/-- Where a mask is all ones, a matching word has the bits of the pattern: an opcode, or reserved bits that are 0. -/
theorem bitsOf_of_match {w mask pattern : Word} (h : w &&& mask = pattern) (hi lo : Nat) {v : Nat}
    (hm : bitsOf mask hi lo = 2 ^ (hi + 1 - lo) - 1) (hp : bitsOf pattern hi lo = v) : bitsOf w hi lo = v := by
  rw [← hp, ← h, bitsOf_and, hm, Nat.and_two_pow_sub_one_of_lt_two_pow (bitsOf_lt w hi lo)]

/-- A number is the word of its bits. -/
theorem ofNat_eq_of_toNat {n : Nat} {w : Word} (h : w.toNat = n) : BitVec.ofNat 32 n = w := by
  rw [← h, BitVec.ofNat_toNat, BitVec.setWidth_eq]

/-! Each format, put together from a word's own fields. -/

section
variable {w : Word} {opc : Nat} (hopc : bitsOf w 31 24 = opc)
include hopc

theorem formatFR_of_fields (hzero : bitsOf w 23 8 = 0) : formatFR opc (fieldLow8 w) = w := by
  apply ofNat_eq_of_toNat
  simp only [fieldLow8, bitsOf] at *
  omega

theorem formatFP_of_fields {bit : Bool} (hbit : bitsOf w 12 12 = bit.toNat) (hzero : bitsOf w 23 13 = 0) :
    formatFP opc bit (fieldP w) = w := by
  apply ofNat_eq_of_toNat
  simp only [fieldP, bitsOf] at *
  omega

theorem formatFC_of_fields {t : Nat} {bit : Bool} (ht : bitsOf w 23 20 = t) (hbit : bitsOf w 16 16 = bit.toNat)
    (hzero : bitsOf w 19 17 = 0) : formatFC opc t bit (fieldCtx w) = w := by
  apply ofNat_eq_of_toNat
  simp only [fieldCtx, bitsOf] at *
  omega

theorem formatFB_of_fields (hzero : bitsOf w 19 4 = 0) : formatFB opc (fieldTsel w) (fieldCut w) = w := by
  apply ofNat_eq_of_toNat
  simp only [fieldTsel, fieldCut, bitsOf] at *
  omega

theorem formatFE_of_fields (hzero : bitsOf w 19 13 = 0) :
    formatFE opc (fieldTsel w) (bitOf w 12) (fieldP w) = w := by
  apply ofNat_eq_of_toNat
  rw [toNat_bitOf]
  simp only [fieldTsel, fieldP, bitsOf] at *
  omega

end

end Sys2Proof

/-! SUPPORT. The decoder and the encoder undo each other, and the answer to an illegal word (30_encoding R101 to R105). -/

namespace Sys2Proof

/-! ### The row a word selects -/

/-- The rows are told apart by their mnemonics (30_encoding R101). -/
theorem op_of_mnemonic {op : Opcode} {w : Word} {ws : List Word} :
    ∀ r ∈ opcodeMap, r.mnemonic = mnemonicOf (assemble op w ws) → r.op = op := by
  cases op <;> simp only [assemble, mnemonicOf] <;> decide

/-- A word selects the one row it matches (30_encoding R102). -/
theorem selectRow_eq_some_iff {w : Word} {r : OpRow} :
    selectRow w = some r ↔ r ∈ opcodeMap ∧ w &&& r.mask = r.pattern := by
  constructor
  · intro h
    exact ⟨List.mem_of_find?_eq_some h, by simpa using List.find?_some h⟩
  · rintro ⟨hr, hmatch⟩
    exact selectRow_of_match hr hmatch

theorem selectRow_eq_none_iff {w : Word} : selectRow w = none ↔ ∀ r ∈ opcodeMap, w &&& r.mask ≠ r.pattern := by
  simp [selectRow, List.find?_eq_none]

/-- A word is illegal exactly when it selects no row (30_encoding R103). -/
theorem exists_decode_eq_illegal_iff {w : Word} {ws : List Word} :
    (∃ why, decode (w :: ws) = .illegal w why ws) ↔ selectRow w = none := by
  cases hr : selectRow w with
  | none => simp [decode, hr]
  | some r =>
    by_cases hn : ws.length < r.nargs
    · simp [decode, hr, hn]
    · simp [decode_of_select hr (Nat.not_lt.1 hn)]

/-- Words that decode to a command start with a word that selects its row, and hold all its arguments. -/
theorem decode_eq_command {ws rest : List Word} {i : Instr} (h : decode ws = .command i rest) :
    ∃ w args r, ws = w :: args ∧ selectRow w = some r ∧ r.nargs ≤ args.length ∧ i = assemble r.op w args ∧
      rest = args.drop r.nargs := by
  cases ws with
  | nil => cases h
  | cons w args =>
    cases hr : selectRow w with
    | none => simp [decode, hr] at h
    | some r =>
      by_cases hn : args.length < r.nargs
      · simp [decode, hr, hn] at h
      · rw [decode_of_select hr (Nat.not_lt.1 hn)] at h
        cases h
        exact ⟨w, args, r, rfl, hr, Nat.not_lt.1 hn, rfl, rfl⟩

/-- Settles O3: a row is found by search, and the opcode bytes tell the rows apart; no row found is an illegal word. -/
theorem decoderFindsTheMatchingRow : Obligations.DecoderFindsTheMatchingRow :=
  ⟨fun _ _ => selectRow_eq_some_iff, fun _ _ => exists_decode_eq_illegal_iff.trans selectRow_eq_none_iff⟩

/-! ### Decoding an encoded command -/

/-- The words of a well-formed command spell it again: each field of its format reads back what was put in. -/
theorem exists_assemble_encode {i : Instr} (hw : wellFormed i = true) (rest : List Word) :
    ∃ op, assemble op (encodeWord i) (encodeArgs i ++ rest) = i := by
  cases i <;> simp only [wellFormed, Bool.and_eq_true, decide_eq_true_eq] at hw
  case nop => exact ⟨.nop, rfl⟩
  case regRead csr => exact ⟨.regRead, congrArg Instr.regRead (fieldLow8_formatFR hw)⟩
  case regWrite csr v => exact ⟨.regWrite, congrArg (Instr.regWrite · v) (fieldLow8_formatFR hw)⟩
  case rcStartEnc => exact ⟨.rcStartEnc, rfl⟩
  case rcStartDec => exact ⟨.rcStartDec, rfl⟩
  case rcFlush => exact ⟨.rcFlush, rfl⟩
  case rcAbort => exact ⟨.rcAbort, rfl⟩
  case rcEncP bit p => exact ⟨.rcEncP, congrArg₂ Instr.rcEncP (bitOf_formatFP hw) (fieldP_formatFP hw)⟩
  case rcDecP p => exact ⟨.rcDecP, congrArg Instr.rcDecP (fieldP_formatFP hw)⟩
  case bcClear => exact ⟨.bcClear, rfl⟩
  case bcSet ctx v => exact ⟨.bcSet, congrArg (Instr.bcSet · v) (fieldCtx_formatFC hw)⟩
  case bcGet ctx => exact ⟨.bcGet, congrArg Instr.bcGet (fieldCtx_formatFC hw)⟩
  case bcPut t bit ctx =>
    obtain ⟨ht, hctx⟩ := hw
    refine ⟨.bcPut, ?_⟩
    rw [assemble, encodeWord, fieldTsel_formatFC ht hctx, bitOf_formatFC hctx, fieldCtx_formatFC hctx]
  case tblBuild t cut alpha =>
    obtain ⟨ht, hcut⟩ := hw
    refine ⟨.tblBuild, ?_⟩
    rw [assemble, encodeWord, fieldTsel_formatFB ht hcut, fieldCut_formatFB hcut]
    rfl
  case tblWrite t b st v =>
    obtain ⟨ht, hst⟩ := hw
    refine ⟨.tblWrite, ?_⟩
    rw [assemble, encodeWord, fieldTsel_formatFE ht hst, bitOf_formatFE hst, fieldP_formatFE hst]
    rfl
  case tblRead t b st =>
    obtain ⟨ht, hst⟩ := hw
    refine ⟨.tblRead, ?_⟩
    rw [assemble, encodeWord, fieldTsel_formatFE ht hst, bitOf_formatFE hst, fieldP_formatFE hst]
  case encCtx t bit ctx =>
    obtain ⟨ht, hctx⟩ := hw
    refine ⟨.encCtx, ?_⟩
    rw [assemble, encodeWord, fieldTsel_formatFC ht hctx, bitOf_formatFC hctx, fieldCtx_formatFC hctx]
  case decCtx t ctx =>
    obtain ⟨ht, hctx⟩ := hw
    refine ⟨.decCtx, ?_⟩
    rw [assemble, encodeWord, fieldTsel_formatFC ht hctx, fieldCtx_formatFC hctx]
  case yccInit np min0 max0 min1 max1 min2 max2 =>
    exact ⟨.yccInit, congrArg (Instr.yccInit · min0 max0 min1 max1 min2 max2) (fieldLow8_formatFR hw)⟩
  case yccFwd r g b => exact ⟨.yccFwd, rfl⟩
  case yccInv y co cg => exact ⟨.yccInv, rfl⟩
  case yccRangeY => exact ⟨.yccRangeY, rfl⟩
  case yccRangeCo y => exact ⟨.yccRangeCo, rfl⟩
  case yccRangeCg y co => exact ⟨.yccRangeCg, rfl⟩

/-- The word of a well-formed command selects the row of its own mnemonic, and has as many argument words. -/
theorem selectsOwnRow (i : Instr) : Laws.SelectsOwnRow.Statement i := by
  cases i with
  | nop => exact Laws.SelectsOwnRow.nop
  | regRead => exact Laws.SelectsOwnRow.regRead _
  | regWrite => exact Laws.SelectsOwnRow.regWrite _ _
  | rcStartEnc => exact Laws.SelectsOwnRow.rcStartEnc
  | rcStartDec => exact Laws.SelectsOwnRow.rcStartDec
  | rcFlush => exact Laws.SelectsOwnRow.rcFlush
  | rcAbort => exact Laws.SelectsOwnRow.rcAbort
  | rcEncP => exact Laws.SelectsOwnRow.rcEncP _ _
  | rcDecP => exact Laws.SelectsOwnRow.rcDecP _
  | bcClear => exact Laws.SelectsOwnRow.bcClear
  | bcSet => exact Laws.SelectsOwnRow.bcSet _ _
  | bcGet => exact Laws.SelectsOwnRow.bcGet _
  | bcPut => exact Laws.SelectsOwnRow.bcPut _ _ _
  | tblBuild => exact Laws.SelectsOwnRow.tblBuild _ _ _
  | tblWrite => exact Laws.SelectsOwnRow.tblWrite _ _ _ _
  | tblRead => exact Laws.SelectsOwnRow.tblRead _ _ _
  | encCtx => exact Laws.SelectsOwnRow.encCtx _ _ _
  | decCtx => exact Laws.SelectsOwnRow.decCtx _ _
  | yccInit => exact Laws.SelectsOwnRow.yccInit _ _ _ _ _ _ _
  | yccFwd => exact Laws.SelectsOwnRow.yccFwd _ _ _
  | yccInv => exact Laws.SelectsOwnRow.yccInv _ _ _
  | yccRangeY => exact Laws.SelectsOwnRow.yccRangeY
  | yccRangeCo => exact Laws.SelectsOwnRow.yccRangeCo _
  | yccRangeCg => exact Laws.SelectsOwnRow.yccRangeCg _ _

/-- Settles O1: the command word selects the row of the command, whose opcode spells it from its own words. -/
theorem decodeOfEncodeIsTheCommand : Obligations.DecodeOfEncodeIsTheCommand := by
  intro i rest hw
  obtain ⟨r, hr, hmnem, hargs⟩ := selectsOwnRow i hw
  obtain ⟨op, hop⟩ := exists_assemble_encode hw rest
  have hrop : r.op = op := op_of_mnemonic r (selectRow_eq_some_iff.1 hr).1 (by rw [hop, hmnem])
  have hlen : r.nargs ≤ (encodeArgs i ++ rest).length := by simp [hargs]
  rw [encode, List.cons_append, decode_of_select hr hlen, hrop, hop, hargs, List.drop_left]

/-! ### Encoding a decoded command -/

/-- The argument words of a command are the ones its row's length takes (30_encoding R92). -/
theorem encodeArgs_assemble {r : OpRow} (hr : r ∈ opcodeMap) (w : Word) {ws : List Word} (hn : r.nargs ≤ ws.length) :
    encodeArgs (assemble r.op w ws) = ws.take r.nargs := by
  have hargs : encodeArgs (assemble r.op w ws) = (List.range r.nargs).map (argWord ws) := by
    fin_cases hr <;> rfl
  rw [hargs]
  apply List.ext_getElem
  · simp [hn]
  · intro k _ hk
    have hlt : k < ws.length := hk.trans_le (List.length_take_le' ..)
    simp [argWord, hlt]

/-- A mask of ones leaves one word, the opcode with no fields (30_encoding R94). -/
theorem formatF0_of_match {w : Word} {opc : Nat} (h : w &&& 0xFFFFFFFF = formatF0 opc) : formatF0 opc = w :=
  h.symm.trans (BitVec.and_allOnes (x := w))

/-- A word that matches a row is the command word of what it spells: the mask fixes the opcode and the reserved bits, and
the fields are the rest (30_encoding R94 to R102). -/
theorem encodeWord_assemble {r : OpRow} (hr : r ∈ opcodeMap) {w : Word} (h : w &&& r.mask = r.pattern)
    (ws : List Word) : encodeWord (assemble r.op w ws) = w := by
  have fixed := bitsOf_of_match h
  fin_cases hr
  -- NOP, REG_READ, REG_WRITE
  · exact formatF0_of_match h
  · exact formatFR_of_fields (fixed 31 24 rfl rfl) (fixed 23 8 rfl rfl)
  · exact formatFR_of_fields (fixed 31 24 rfl rfl) (fixed 23 8 rfl rfl)
  -- RC_START_ENC, RC_START_DEC, RC_FLUSH, RC_ABORT, RC_ENC_P, RC_DEC_P
  · exact formatF0_of_match h
  · exact formatF0_of_match h
  · exact formatF0_of_match h
  · exact formatF0_of_match h
  · exact formatFP_of_fields (fixed 31 24 rfl rfl) (toNat_bitOf w 12).symm (fixed 23 13 rfl rfl)
  · exact formatFP_of_fields (fixed 31 24 rfl rfl) (fixed 12 12 rfl rfl) (fixed 23 13 rfl rfl)
  -- BC_CLEAR, BC_SET, BC_GET, BC_PUT, TBL_BUILD, TBL_WRITE, TBL_READ, ENC_CTX, DEC_CTX
  · exact formatF0_of_match h
  · exact formatFC_of_fields (fixed 31 24 rfl rfl) (fixed 23 20 rfl rfl) (fixed 16 16 rfl rfl) (fixed 19 17 rfl rfl)
  · exact formatFC_of_fields (fixed 31 24 rfl rfl) (fixed 23 20 rfl rfl) (fixed 16 16 rfl rfl) (fixed 19 17 rfl rfl)
  · exact formatFC_of_fields (fixed 31 24 rfl rfl) rfl (toNat_bitOf w 16).symm (fixed 19 17 rfl rfl)
  · exact formatFB_of_fields (fixed 31 24 rfl rfl) (fixed 19 4 rfl rfl)
  · exact formatFE_of_fields (fixed 31 24 rfl rfl) (fixed 19 13 rfl rfl)
  · exact formatFE_of_fields (fixed 31 24 rfl rfl) (fixed 19 13 rfl rfl)
  · exact formatFC_of_fields (fixed 31 24 rfl rfl) rfl (toNat_bitOf w 16).symm (fixed 19 17 rfl rfl)
  · exact formatFC_of_fields (fixed 31 24 rfl rfl) rfl (fixed 16 16 rfl rfl) (fixed 19 17 rfl rfl)
  -- YCC_INIT, YCC_FWD, YCC_INV, YCC_RANGE_Y, YCC_RANGE_CO, YCC_RANGE_CG
  · exact formatFR_of_fields (fixed 31 24 rfl rfl) (fixed 23 8 rfl rfl)
  · exact formatF0_of_match h
  · exact formatF0_of_match h
  · exact formatF0_of_match h
  · exact formatF0_of_match h
  · exact formatF0_of_match h

/-- Settles O2: the word that selected the row and the arguments taken are those of the command they spell. -/
theorem decodedWordsAreTheEncoding : Obligations.DecodedWordsAreTheEncoding := by
  intro ws i rest h
  refine ⟨decode_wellFormed h, ?_⟩
  obtain ⟨w, args, r, rfl, hr, hn, rfl, rfl⟩ := decode_eq_command h
  obtain ⟨hmem, hmatch⟩ := selectRow_eq_some_iff.1 hr
  rw [encode, encodeWord_assemble hmem hmatch, encodeArgs_assemble hmem w hn, List.cons_append, List.take_append_drop]

/-- Settles O4: the words are closed, so encoding and decoding them computes. -/
theorem workedEncodingsDecode : Obligations.WorkedEncodingsDecode := by
  unfold Obligations.WorkedEncodingsDecode
  decide

end Sys2Proof

namespace Sys2Proof.Machine

theorem step_of_illegal {s : State} {w : Word} {why : IllegalWord} {rest : List Word} (hh : s.hold = none)
    (hd : decode s.cmd = .illegal w why rest) : step s = .next (takeFault w .illegalCommand (takeWords rest s)) := by
  simp only [step, hh, hd, execIllegal]

/-- Settles O6: the word is taken, and the answer is the fault entry of ILLEGAL_COMMAND for it. -/
theorem stepFaultsAnIllegalWord : Obligations.StepFaultsAnIllegalWord := by
  intro s w why rest hh hd
  rw [step_of_illegal hh hd]
  exact ⟨fun hf => congrArg _ (takeFault_first (s := takeWords rest s) hf),
    fun hf => congrArg _ (takeFault_later (s := takeWords rest s) hf)⟩

end Sys2Proof.Machine

/-! SUPPORT. Chance scaling, the intervals of a coding step, how sessions open and close, and the checks that a coding
command makes first (40_range_coder R121, R122, R128, R130 to R133). -/

namespace Sys2Proof.Machine

/-! ### Chance -/

/-- The split form is the rounded product (40_range_coder R121): with `range = 4096 q + m` the term `q p` leaves the
division whole. -/
theorem chance_eq (p range : Nat) : chance p range = (range * p + 2048) / 4096 := by
  have hsplit : range * p + 2048 = range % 4096 * p + 2048 + 4096 * (range / 4096 * p) := by
    conv_lhs => rw [← Nat.mod_add_div range 4096]
    ring
  rw [hsplit, Nat.add_mul_div_left _ _ (by decide), chance]

/-- Settles O28: the rounded product by `chance_eq`, and the intermediates by the bounds of their factors. -/
theorem chanceIsTheRoundedProduct : Obligations.ChanceIsTheRoundedProduct := by
  refine ⟨chance_eq, fun p range _ hp' _ hr => ?_⟩
  have hlow : range % 4096 * p ≤ 4095 * 4095 := Nat.mul_le_mul (by omega) hp'
  have hhigh : range / 4096 * p ≤ 4096 * 4095 := Nat.mul_le_mul (by omega) hp'
  unfold chance
  omega

/-- The width of the interval that the offset lies in (40_range_coder R126): P_BIT has the top `Chance` of it. -/
def decRange (p : Nat) (s : State) : Nat :=
  if s.rcRange.toNat - chance p s.rcRange.toNat ≤ s.rcLow.toNat then chance p s.rcRange.toNat
  else s.rcRange.toNat - chance p s.rcRange.toNat

/-- The offset within that interval (40_range_coder R126). -/
def decLow (p : Nat) (s : State) : Nat :=
  if s.rcRange.toNat - chance p s.rcRange.toNat ≤ s.rcLow.toNat then
    s.rcLow.toNat - (s.rcRange.toNat - chance p s.rcRange.toNat)
  else s.rcLow.toNat

/-- Decoding a bit sets that interval (40_range_coder R126). -/
theorem decSplit_eq (p : Nat) (s : State) : decSplit p s = setInterval (decLow p s) (decRange p s) s := by
  unfold decSplit decLow decRange
  dsimp only
  split <;> rfl

/-- The width of either bit is at least 16 and within the interval (40_range_coder R122). -/
theorem decRange_bounds {p : Nat} {s : State} (hp : 1 ≤ p) (hp' : p ≤ 4095) (hr : 2 ^ 16 < s.rcRange.toNat) :
    16 ≤ decRange p s ∧ decRange p s ≤ s.rcRange.toNat := by
  have hc := chance_bounds hp hp' hr
  unfold decRange
  split <;> omega

/-- Settles O29: each coding step takes one of the two intervals that `chance_bounds` measures. -/
theorem chanceLeavesBothIntervalsWide : Obligations.ChanceLeavesBothIntervalsWide := by
  refine ⟨fun p range hp hp' hr _ => ?_, fun s p bit hp hp' hs => ⟨?_, ?_⟩⟩
  · have hc := chance_bounds hp hp' hr
    omega
  · have hb := bitRange_bounds bit hp hp' hs.1
    rw [encSplit_eq, setInterval_rcRange, BitVec.toNat_ofNat, Nat.mod_eq_of_lt (by omega)]
    exact hb.1
  · have hb := decRange_bounds hp hp' hs.1
    rw [decSplit_eq, setInterval_rcRange, BitVec.toNat_ofNat, Nat.mod_eq_of_lt (by omega)]
    exact hb.1

/-! ### Sessions -/

/-- Settles O30: outside the faulted state neither command makes a check. -/
theorem sessionsOpenAndClose : Obligations.SessionsOpenAndClose :=
  fun _ hf => ⟨unlessFaulted_of_ok hf, unlessFaulted_of_ok hf⟩

theorem indexOk_of_lt {s : State} {t ctx : Nat} (ht : t < s.cfg.ntab) (hctx : ctx < s.cfg.nctx) :
    ¬ (!indexOk s t ctx) = true := by
  simp [indexOk, ht, hctx]

theorem exec_rcEncP_of_ok {s : State} {p : Nat} (hf : s.faulted = false) (hm : s.mode = .enc) (hp : p ≠ 0)
    (bit : Bool) :
    exec (.rcEncP bit p) s = finishEnc (encodeWord (.rcEncP bit p)) (encodeBit p bit s) id := by
  refine (unlessFaulted_of_ok hf).trans ?_
  rw [if_neg (not_not.2 hm), if_neg hp]

theorem exec_encCtx_of_ok {s : State} {t ctx : Nat} {n : BitVec 12 × BitVec 12} (hf : s.faulted = false)
    (hi : ¬ (!indexOk s t ctx) = true) (hm : s.mode = .enc) (hn : checkNext s t (ctxRead s ctx) = .ok n) (bit : Bool) :
    exec (.encCtx t bit ctx) s = finishEnc (encodeWord (.encCtx t bit ctx))
      (encodeBit (ctxRead s ctx).toNat bit s) (ctxWrite ctx (nextOf n bit)) := by
  refine (unlessFaulted_of_ok hf).trans ?_
  rw [if_neg hi, if_neg (not_not.2 hm), hn]

/-- The interval RC_FLUSH starts its shifts from (40_range_coder R132). -/
def flushStart (s : State) : State := setInterval (s.rcLow.toNat + flushRange) s.rcRange.toNat s

theorem exec_rcFlush_of_ok {s : State} (hf : s.faulted = false) (hm : s.mode = .enc) :
    exec .rcFlush s = finishEnc (encodeWord .rcFlush) (flushShifts 4 (flushStart s)) (setMode .idle) := by
  refine (unlessFaulted_of_ok hf).trans ?_
  rw [if_neg (not_not.2 hm), flushStart]

/-- A fault raised outside the faulted state is the first fault of the block (60_exceptions R272). -/
theorem raiseFault_faultedBy {s : State} (hf : s.faulted = false) (w : Word) (c : Cause) :
    ∃ u, raiseFault w c s = .next u ∧ faultedBy w c s u :=
  ⟨_, rfl, takeFault_first hf⟩

/-- Settles O40: each command checks its session, after its indexes and before its chance. -/
theorem codingCommandsNeedTheirSession : Obligations.CodingCommandsNeedTheirSession := by
  intro s bit p t ctx hf
  dsimp only
  have of_raise : ∀ {i c}, exec i s = raiseFault (encodeWord i) c s →
      ∃ u, exec i s = .next u ∧ faultedBy (encodeWord i) c s u := fun h => h ▸ raiseFault_faultedBy hf _ _
  refine ⟨fun hm => ⟨of_raise ?_, of_raise ?_, fun ht hctx => of_raise ?_⟩,
    fun hm => ⟨of_raise ?_, fun ht hctx => of_raise ?_⟩, fun hm => of_raise ?_, fun hm => of_raise ?_⟩
  · exact (unlessFaulted_of_ok hf).trans (if_pos hm)
  · exact (unlessFaulted_of_ok hf).trans (if_pos hm)
  · exact (unlessFaulted_of_ok hf).trans ((if_neg (indexOk_of_lt ht hctx)).trans (if_pos hm))
  · exact (unlessFaulted_of_ok hf).trans (if_pos hm)
  · exact (unlessFaulted_of_ok hf).trans ((if_neg (indexOk_of_lt ht hctx)).trans (if_pos hm))
  · exact (unlessFaulted_of_ok hf).trans ((if_neg (not_not.2 hm)).trans (if_pos rfl))
  · exact (unlessFaulted_of_ok hf).trans ((if_neg (not_not.2 hm)).trans (if_pos rfl))

end Sys2Proof.Machine

/-! SUPPORT. What reading bytes leaves in the window and the interval, for RC_START_DEC and for the refill of a decode
(40_range_coder R127, R129, R131; 20_memory R73, R74, R76). -/

namespace Sys2Proof.Machine

/-! ### Bytes as a number -/

@[simp] theorem foldBytes_nil (x : Nat) : foldBytes x [] = x := rfl

@[simp] theorem foldBytes_cons (x : Nat) (b : Byte) (bs : List Byte) :
    foldBytes x (b :: bs) = foldBytes (x * 256 + b.toNat) bs := rfl

theorem foldBytes_append (x : Nat) (as bs : List Byte) : foldBytes x (as ++ bs) = foldBytes (foldBytes x as) bs :=
  List.foldl_append ..

/-- A register of 32 bits that bytes are shifted into holds the number modulo 2^32, whenever it is cut to the width. -/
theorem ofNat_foldBytes_mod (x : Nat) (bs : List Byte) :
    BitVec.ofNat 32 (foldBytes (x % 2 ^ 32) bs) = BitVec.ofNat 32 (foldBytes x bs) := by
  induction bs generalizing x with
  | nil => exact BitVec.eq_of_toNat_eq (by simp)
  | cons b bs ih =>
    have hmod : (x % 2 ^ 32 * 256 + b.toNat) % 2 ^ 32 = (x * 256 + b.toNat) % 2 ^ 32 := by omega
    rw [foldBytes_cons, foldBytes_cons, ← ih, hmod, ih]

/-! ### How often an interval is scaled -/

theorem shiftsFor_wide {range : Nat} (h : minRange < range) : shiftsFor range = 0 := if_pos h

/-- A narrow interval is scaled once, and then as often as what that gives. -/
theorem shiftsFor_narrow {range : Nat} (h : 2 ≤ range) (h' : ¬ minRange < range) :
    shiftsFor range = shiftsFor (range * 256) + 1 := by
  unfold minRange at h'
  unfold shiftsFor
  split_ifs <;> omega

/-- Scaled as often as it needs, an interval is as wide as between commands (40_range_coder R122, R123). -/
theorem scaled_bounds {range : Nat} (h : 16 ≤ range) (h' : range ≤ 2 ^ 24) :
    2 ^ 16 < range * 256 ^ shiftsFor range ∧ range * 256 ^ shiftsFor range ≤ 2 ^ 24 := by
  unfold shiftsFor
  split_ifs <;> omega

/-- Scaled less often than it needs, an interval is still narrow (40_range_coder R127). -/
theorem scaled_le_of_short {range n : Nat} (h : 16 ≤ range) (hn : n < shiftsFor range) : range * 256 ^ n ≤ 2 ^ 16 := by
  unfold shiftsFor at hn
  split_ifs at hn
  · omega
  · obtain rfl : n = 0 := by omega
    omega
  · obtain rfl | rfl : n = 0 ∨ n = 1 := by omega
    · omega
    · omega

/-! ### Reading bytes -/

/-- `s` after it has read the bytes `bs`, which leave `rest` in the source, shifted them into RC_LOW, first byte first
(20_memory R76), and set RC_RANGE to `range`. -/
def readIn (bs rest : List Byte) (range : Nat) (s : State) : State :=
  { s with
    rcLow := BitVec.ofNat 32 (foldBytes s.rcLow.toNat bs), rcRange := BitVec.ofNat 32 range
    bytesIn := s.bytesIn + BitVec.ofNat 32 bs.length, src := rest }

theorem readIn_nil {s : State} {rest : List Byte} (h : s.src = rest) : readIn [] rest s.rcRange.toNat s = s := by
  simp [readIn, ← h]

/-- Reading one byte and then others is reading them all. -/
theorem readIn_shift (b : Byte) (bs rest src : List Byte) (range range' : Nat) (s : State) :
    readIn bs rest range' (setInterval (s.rcLow.toNat * 2 ^ 8 + b.toNat) range (takeByte src s)) =
      readIn (b :: bs) rest range' s := by
  have hlow : BitVec.ofNat 32 (foldBytes ((s.rcLow.toNat * 2 ^ 8 + b.toNat) % 2 ^ 32) bs) =
      BitVec.ofNat 32 (foldBytes s.rcLow.toNat (b :: bs)) := ofNat_foldBytes_mod _ _
  have hcount : s.bytesIn + 1 + BitVec.ofNat 32 bs.length = s.bytesIn + BitVec.ofNat 32 (bs.length + 1) := by
    rw [BitVec.ofNat_add, BitVec.add_assoc, BitVec.add_comm 1]
    rfl
  simp only [readIn, setInterval_rcLow, setInterval_bytesIn, takeByte_bytesIn, BitVec.toNat_ofNat, List.length_cons,
    hlow, hcount]
  rfl

/-- RC_START_DEC reads the bytes there are, up to those it needs (40_range_coder R129). -/
theorem fillWindow_eq_readIn (n : Nat) (s : State) :
    fillWindow n s = (n - s.src.length, readIn (s.src.take n) (s.src.drop n) s.rcRange.toNat s) := by
  induction n generalizing s with
  | zero => simp [fillWindow, readIn_nil (s := s) rfl]
  | succ n ih =>
    cases hsrc : s.src with
    | nil => simp [fillWindow, readByte_nil hsrc, readIn_nil hsrc]
    | cons b rest =>
      have hlen : n + 1 - (b :: rest).length = n - rest.length := Nat.add_sub_add_right ..
      have hrange : (pushLow b (takeByte rest s)).rcRange.toNat = s.rcRange.toNat := by simp [pushLow]
      rw [fillWindow, readByte_cons hsrc]
      dsimp only
      rw [ih, hrange, hlen]
      exact congrArg (Prod.mk _) (readIn_shift ..)

/-- DecRefill reads the bytes there are, up to those the interval needs, and scales it by each (40_range_coder R127). -/
theorem decRefill_eq_readIn {bs : List Byte} {s : State} (hsrc : s.src = bs) (hr : 2 ≤ s.rcRange.toNat) :
    decRefill bs s = readIn (bs.take (shiftsFor s.rcRange.toNat)) (bs.drop (shiftsFor s.rcRange.toNat))
      (s.rcRange.toNat * 256 ^ (bs.take (shiftsFor s.rcRange.toNat)).length) s := by
  induction bs generalizing s with
  | nil => simp [decRefill, readIn_nil hsrc]
  | cons b rest ih =>
    by_cases hw : minRange < s.rcRange.toNat
    · simp [decRefill_wide hw, shiftsFor_wide hw, readIn_nil hsrc]
    · have hscaled : (refillShift b (takeByte rest s)).rcRange.toNat = s.rcRange.toNat * 256 := by
        unfold minRange at hw
        simp [refillShift]
        omega
      rw [decRefill_narrow hw, ih rfl (by omega), hscaled, shiftsFor_narrow hr hw, List.take_succ_cons,
        List.drop_succ_cons, List.length_cons, Nat.pow_succ', ← Nat.mul_assoc]
      exact readIn_shift ..

/-! ### RC_START_DEC -/

/-- The window with the bytes `bs` read into it, in mode IDLE (40_range_coder R129). -/
def windowOf (bs rest : List Byte) (s : State) : State :=
  { s with
    mode := .idle, bytesIn := BitVec.ofNat 32 bs.length, rcRange := 0x01000000
    rcLow := BitVec.ofNat 32 (foldBytes 0 bs), rcDelayed := none, rcPending := 0, src := rest }

theorem readIn_openDecoder (bs rest : List Byte) (s : State) :
    readIn bs rest baseRange (openDecoder s) = windowOf bs rest s := by
  have hcount : (openDecoder s).bytesIn + BitVec.ofNat 32 bs.length = BitVec.ofNat 32 bs.length := BitVec.zero_add _
  rw [readIn, hcount]
  rfl

theorem exec_rcStartDec_eq {s : State} (hf : s.faulted = false) :
    exec .rcStartDec s = .next (settleStart (encodeWord .rcStartDec)
      (3 - s.src.length, windowOf (s.src.take 3) (s.src.drop 3) s)) := by
  rw [exec_rcStartDec_of_ok hf, ← readIn_openDecoder]
  exact congrArg (fun r => Host.Outcome.next (settleStart _ r)) (fillWindow_eq_readIn 3 (openDecoder s))

/-- Settles O31: three bytes are all that RC_START_DEC needs. -/
theorem rcStartDecFillsTheWindow : Obligations.RcStartDecFillsTheWindow := by
  intro s b0 b1 b2 rest hf hsrc
  have hleft : 3 - (b0 :: b1 :: b2 :: rest).length = 0 := by simp
  have hlow : foldBytes 0 [b0, b1, b2] = b0.toNat * 65536 + b1.toNat * 256 + b2.toNat := by
    simp only [foldBytes_cons, foldBytes_nil]
    omega
  rw [exec_rcStartDec_eq hf, hsrc, hleft, ← hlow]
  rfl

/-- Settles O32: it reads the bytes there are, and the end of the source decides between the fault and the hold. -/
theorem rcStartDecOnAShortSource : Obligations.RcStartDecOnAShortSource := by
  intro s hf hlen
  have hleft : 3 - s.src.length ≠ 0 := by omega
  have htake : s.src.take 3 = s.src := List.take_of_length_le hlen.le
  have hdrop : s.src.drop 3 = [] := List.drop_of_length_le hlen.le
  rw [exec_rcStartDec_eq hf, htake, hdrop, settleStart, if_neg hleft]
  refine ⟨fun heof => congrArg _ ?_, fun heof => congrArg _ (if_neg (Bool.eq_false_iff.1 heof))⟩
  exact (if_pos heof).trans (takeFault_first (s := setHold none (windowOf s.src [] s)) hf)

/-! ### RC_DEC_P -/

/-- `s` after the interval of its bit has been set and scaled by the first `n` bytes of the source (40_range_coder R126,
R127). -/
def refilledBy (n p : Nat) (s : State) : State :=
  { s with
    rcLow := BitVec.ofNat 32 (foldBytes (decLow p s) (s.src.take n))
    rcRange := BitVec.ofNat 32 (decRange p s * 256 ^ n)
    bytesIn := s.bytesIn + BitVec.ofNat 32 n, src := s.src.drop n }

/-- The refill of a decode reads the bytes there are, up to those it needs (40_range_coder R127). -/
theorem decRefill_decSplit {s : State} {p : Nat} (hs : decOk s) (hp : 1 ≤ p) (hp' : p ≤ 4095) :
    decRefill s.src (decSplit p s) = refilledBy (min (shiftsFor (decRange p s)) s.src.length) p s := by
  have hb := decRange_bounds hp hp' hs.1.1
  have hr : (decSplit p s).rcRange.toNat = decRange p s := by
    rw [decSplit_eq, setInterval_rcRange, BitVec.toNat_ofNat, Nat.mod_eq_of_lt (by omega)]
  rw [decRefill_eq_readIn (decSplit_src p s) (by omega), hr, decSplit_eq, refilledBy, readIn, List.length_take,
    setInterval_rcLow, BitVec.toNat_ofNat, ofNat_foldBytes_mod, List.take_eq_take_min, List.drop_eq_drop_min]
  rfl

theorem exec_rcDecP_eq {s : State} {p : Nat} (hf : s.faulted = false) (hm : s.mode = .dec) (hs : decOk s) (hp : 1 ≤ p)
    (hp' : p ≤ 4095) :
    exec (.rcDecP p) s = .next (settleDecode (encodeWord (.rcDecP p)) (decBit p s) none
      (refilledBy (min (shiftsFor (decRange p s)) s.src.length) p s)) := by
  rw [exec_rcDecP_of_ok hf hm (by omega), decodeWith, decRefill_decSplit hs hp hp']

/-- The bit found, as a word, is P_BIT or the other as the offset lies (40_range_coder R126). -/
theorem bitWord_decBit (p : Nat) (s : State) :
    bitWord (decBit p s) =
      if s.cfg.pBit = decide (s.rcRange.toNat - chance p s.rcRange.toNat ≤ s.rcLow.toNat) then 1 else 0 := by
  unfold decBit
  by_cases htop : s.rcRange.toNat - chance p s.rcRange.toNat ≤ s.rcLow.toNat
  · cases hb : s.cfg.pBit <;> simp [htop, bitWord]
  · cases hb : s.cfg.pBit <;> simp [htop, bitWord]

theorem decBit_eq_true_iff (p : Nat) (s : State) :
    decBit p s = true ↔ (s.cfg.pBit = true ↔ s.rcRange.toNat - chance p s.rcRange.toNat ≤ s.rcLow.toNat) := by
  unfold decBit
  by_cases htop : s.rcRange.toNat - chance p s.rcRange.toNat ≤ s.rcLow.toNat <;> simp [htop]

/-- Bytes shifted into an offset below the width keep it below the scaled width (40_range_coder R127). -/
theorem foldBytes_lt {low range : Nat} (h : low < range) (bs : List Byte) :
    foldBytes low bs < range * 256 ^ bs.length := by
  induction bs generalizing low range with
  | nil => simpa using h
  | cons b bs ih =>
    have hb : b.toNat < 256 := b.isLt
    rw [foldBytes_cons, List.length_cons, Nat.pow_succ', ← Nat.mul_assoc]
    exact ih (by omega)

theorem decLow_lt_decRange {p : Nat} {s : State} (hs : decOk s) (hp : 1 ≤ p) (hp' : p ≤ 4095) :
    decLow p s < decRange p s := by
  obtain ⟨⟨hr, -⟩, hlow⟩ := hs
  have hc := chance_bounds hp hp' hr
  unfold decLow decRange
  split <;> omega

/-- Settles O38: with the bytes its refill needs, RC_DEC_P leaves an interval wide enough, and answers. -/
theorem rcDecPDecodesTheBit : Obligations.RcDecPDecodesTheBit := by
  intro s p hf hm hh hs hp hp'
  show shiftsFor (decRange p s) ≤ s.src.length →
    exec (.rcDecP p) s = .next (respondOk [_] (refilledBy (shiftsFor (decRange p s)) p s)) ∧
    foldBytes (decLow p s) (s.src.take (shiftsFor (decRange p s))) < decRange p s * 256 ^ shiftsFor (decRange p s) ∧
    2 ^ 16 < decRange p s * 256 ^ shiftsFor (decRange p s) ∧ decRange p s * 256 ^ shiftsFor (decRange p s) ≤ 2 ^ 24
  intro hk
  have hb := decRange_bounds hp hp' hs.1.1
  have hwide := scaled_bounds hb.1 (hb.2.trans hs.1.2)
  have hlow := foldBytes_lt (decLow_lt_decRange hs hp hp') (s.src.take (shiftsFor (decRange p s)))
  rw [List.length_take_of_le hk] at hlow
  refine ⟨?_, hlow, hwide⟩
  have hends : minRange < (refilledBy (shiftsFor (decRange p s)) p s).rcRange.toNat := by
    simp only [refilledBy, BitVec.toNat_ofNat, minRange]
    omega
  rw [exec_rcDecP_eq hf hm hs hp hp', Nat.min_eq_left hk, settleDecode, if_pos hends, bitWord_decBit, ← hh]
  rfl

/-- Settles O39: with fewer bytes the interval stays too narrow to answer, and the end of the source decides. -/
theorem rcDecPOnAShortSource : Obligations.RcDecPOnAShortSource := by
  intro s p hf hm hh hs hp hp'
  show s.src.length < shiftsFor (decRange p s) → _
  intro hk
  have hb := decRange_bounds hp hp' hs.1.1
  have hnarrow := scaled_le_of_short hb.1 hk
  have hholds : ¬ minRange < (refilledBy s.src.length p s).rcRange.toNat := by
    simp only [refilledBy, BitVec.toNat_ofNat, minRange]
    omega
  have hall : refilledBy s.src.length p s = { s with
      rcLow := BitVec.ofNat 32 (foldBytes (decLow p s) s.src)
      rcRange := BitVec.ofNat 32 (decRange p s * 256 ^ s.src.length)
      bytesIn := s.bytesIn + BitVec.ofNat 32 s.src.length, src := [] } := by
    simp [refilledBy]
  rw [exec_rcDecP_eq hf hm hs hp hp', Nat.min_eq_right hk.le, settleDecode, if_neg hholds, hall]
  refine ⟨fun heof => congrArg _ ?_, fun heof => ⟨decBit p s, decBit_eq_true_iff p s, congrArg _ ?_⟩⟩
  · rw [if_pos heof, ← hh]
    exact takeFault_first hf
  · exact if_neg (Bool.eq_false_iff.1 heof)

end Sys2Proof.Machine

/-! SUPPORT. One iteration of EncRenorm by its branches, the bytes it decides, and what the iterations leave when they
finish (40_range_coder R124, R125, R130). -/

namespace Sys2Proof.Machine

/-! ### The branches of one iteration -/

section
variable {s : State}

/-- The first byte of a session (40_range_coder R125). -/
theorem encShift_first (hd : s.rcDelayed = none) :
    encShift s = some (shiftInterval (setCarry (some (topByte s)) s.rcPending s)) := by
  simp only [encShift, hd]

variable {d : Byte} (hd : s.rcDelayed = some d)
include hd

/-- No carry can come (40_range_coder R125). -/
theorem encShift_noCarry (hl : s.rcLow.toNat + s.rcRange.toNat < 2 ^ 24) :
    encShift s = some (shiftInterval (emitDelayed d 0xFF (topByte s) s)) := by
  simp only [encShift, hd, if_pos hl]

/-- The carry has come (40_range_coder R125). -/
theorem encShift_carry (hl : 2 ^ 24 ≤ s.rcLow.toNat) :
    encShift s = some (shiftInterval (emitDelayed (d + 1) 0x00 (topByte s) s)) := by
  have hl' : ¬ s.rcLow.toNat + s.rcRange.toNat < 2 ^ 24 := by omega
  simp only [encShift, hd, if_neg hl', if_pos hl]

/-- The carry is undecided (40_range_coder R125). -/
theorem encShift_undecided (hl : undecided s.rcLow.toNat s.rcRange.toNat) :
    encShift s = if s.rcPending.toNat = 2 ^ s.cfg.pendW - 1 then none
      else some (shiftInterval (setCarry (some d) (s.rcPending + 1) s)) := by
  obtain ⟨hlow, htop⟩ := hl
  simp only [encShift, hd, if_neg (Nat.not_lt.2 htop), if_neg (Nat.not_le.2 hlow)]

end

/-- Settles O34: each branch under its own condition; the second and third write one byte and the pending ones. -/
theorem encRenormIterationByBranch : Obligations.EncRenormIterationByBranch := by
  intro s
  have hcount : ∀ (d fill : Byte), BitVec.ofNat 32 (d :: List.replicate s.rcPending.toNat fill).length =
      BitVec.ofNat 32 (1 + s.rcPending.toNat) := fun d fill => by
    rw [List.length_cons, List.length_replicate, Nat.add_comm]
  refine ⟨encShift_first, fun d hd hl => ?_, fun d hd hl => ?_, fun d hd htop hlow => ?_⟩
  · rw [encShift_noCarry hd hl, ← hcount d 0xFF]
    rfl
  · rw [encShift_carry hd hl, ← hcount (d + 1) 0x00]
    rfl
  · rw [encShift_undecided hd ⟨hlow, htop⟩, ← hd]
    rfl

/-! ### The interval -/

section
variable {s t : State} (h : encShift s = some t)
include h

theorem encShift_low : t.rcLow.toNat = s.rcLow.toNat * 256 % 2 ^ 24 := by
  rw [(encShift_interval h).1, BitVec.toNat_ofNat]
  omega

theorem encShift_range (hw : ¬ minRange < s.rcRange.toNat) : t.rcRange.toNat = s.rcRange.toNat * 256 := by
  unfold minRange at hw
  rw [(encShift_interval h).2, BitVec.toNat_ofNat]
  omega

end

/-- Settles O35: a narrow interval that reaches 2^24 from below has top byte 0xFF, and no carry reaches a delayed 0xFF.
When the first byte delays a 0xFF its interval has that top byte; later an iteration keeps the bounds of `renormOk`. -/
theorem carriesNeverWrap : Obligations.CarriesNeverWrap := by
  rintro s low range rfl rfl hpos hnarrow htop hfirst
  refine ⟨fun h => ?_, fun h h' => ?_, fun d hd h => ?_, fun t ht => ?_⟩
  · have := h.imp_left (fun hn => hfirst (.inl hn))
    omega
  · omega
  · have hne : d ≠ 0xFF := by
      rintro rfl
      have := hfirst (.inr hd)
      omega
    have := d.isLt
    bv_omega
  · have hw : s.rcRange.toNat ≤ minRange := hnarrow
    have hlow := encShift_low ht
    have hrange := encShift_range ht (Nat.not_lt.2 hw)
    refine ⟨by omega, encShift_delayed ht, fun hff => ?_⟩
    cases hd : s.rcDelayed with
    | none =>
      have hbelow := hfirst (.inl hd)
      rw [encShift_first hd] at ht
      cases ht
      have hbyte : s.rcLow.toNat / 2 ^ 16 % 256 = 255 := by
        simpa [topByte] using congrArg BitVec.toNat (Option.some.inj hff)
      omega
    | some d =>
      have hs : renormOk s := ⟨⟨hpos, by omega⟩, htop, fun hn => by simp [hd] at hn, fun h => hfirst (.inr h)⟩
      have := encShift_delayed_ff hs hw ht hff
      omega

theorem lowAfter_succ (low k : Nat) : lowAfter (low * 256 % 2 ^ 24) k = lowAfter low (k + 1) := by
  unfold lowAfter
  by_cases hk : k = 0
  · simp [hk]
  · rw [if_neg hk, if_neg k.succ_ne_zero, Nat.mod_mul_mod, Nat.mul_assoc, ← Nat.pow_succ']

/-! ### The bytes decided -/

/-- The bytes a session has decided: those written, the delayed one and the pending ones, which are 0xFF until a carry
comes (10_state R53, 40_range_coder R125). -/
def decided (s : State) : List Byte := s.snk ++ (s.rcDelayed.toList ++ List.replicate s.rcPending.toNat 0xFF)

theorem decided_length (s : State) : (decided s).length = s.snk.length + unwritten s := by
  unfold decided unwritten
  cases s.rcDelayed with
  | none => simp
  | some d => simp [Nat.add_comm]

@[simp] theorem decided_setInterval (low range : Nat) (s : State) : decided (setInterval low range s) = decided s := rfl

/-- A counter that is not full counts one more (10_state R46). -/
theorem pending_succ {s : State} (hs : pendingOk s) (hfull : s.rcPending.toNat ≠ 2 ^ s.cfg.pendW - 1) :
    (s.rcPending + 1).toNat = s.rcPending.toNat + 1 := by
  have hle : 2 ^ s.cfg.pendW ≤ 2 ^ 32 := Nat.pow_le_pow_right (by decide) hs.1
  have hlt := hs.2
  exact BitVec.toNat_add_of_lt (by show _ + 1 < _; omega)

/-- What keeps a carry from wrapping: RC_LOW holds one carry at most, and none can come before the first byte or reach a
delayed 0xFF (40_range_coder R125, 10_state R52). -/
abbrev carryOk (s : State) : Prop :=
  s.rcLow.toNat < 2 ^ 25 ∧ (s.rcDelayed = none → s.rcPending = 0 ∧ s.rcLow.toNat < 2 ^ 24) ∧
  (s.rcDelayed = some 0xFF → s.rcLow.toNat < 2 ^ 24)

theorem renormOk.carryOk {s : State} (hs : renormOk s) : carryOk s := by
  obtain ⟨⟨hpos, -⟩, htop, hnone, hff⟩ := hs
  refine ⟨by omega, fun h => ⟨(hnone h).1, ?_⟩, fun h => ?_⟩
  · have := (hnone h).2
    omega
  · have := hff h
    omega

/-- After an iteration no carry is left in RC_LOW, and a byte is delayed (40_range_coder R125). -/
theorem encShift_carryOk {s t : State} (h : encShift s = some t) : carryOk t := by
  have hlow := encShift_low h
  exact ⟨by omega, fun hn => absurd hn (encShift_delayed h), fun _ => by omega⟩

/-- An iteration decides the top byte of RC_LOW, after adding the carry there is to the bytes before it
(40_range_coder R125). -/
theorem encShift_decided {s t : State} (hs : carryOk s) (hp : pendingOk s) (hw : ¬ minRange < s.rcRange.toNat)
    (h : encShift s = some t) :
    (s.rcLow.toNat < 2 ^ 24 ∧ decided t = decided s ++ [topByte s]) ∨
    (2 ^ 24 ≤ s.rcLow.toNat ∧ ∃ d, d ≠ 0xFF ∧
      decided s = s.snk ++ d :: List.replicate s.rcPending.toNat 0xFF ∧
      decided t = s.snk ++ (d + 1) :: List.replicate s.rcPending.toNat 0x00 ++ [topByte s]) := by
  obtain ⟨-, hnone, hff⟩ := hs
  unfold minRange at hw
  rcases encShift_cases h with ⟨hd, rfl⟩ | ⟨d, hd, hl, rfl⟩ | ⟨d, hd, hl, rfl⟩ | ⟨d, hd, htop, hl, hfull, rfl⟩
  · obtain ⟨hpending, hlow⟩ := hnone hd
    refine .inl ⟨hlow, ?_⟩
    simp [decided, shiftInterval, hd, hpending]
  · refine .inl ⟨by omega, ?_⟩
    simp [decided, shiftInterval, emitDelayed, hd]
  · refine .inr ⟨hl, d, ?_, ?_, ?_⟩
    · rintro rfl
      have := hff hd
      omega
    · simp [decided, hd]
    · simp [decided, shiftInterval, emitDelayed]
  · have hbyte : topByte s = 0xFF := by
      apply BitVec.eq_of_toNat_eq
      show s.rcLow.toNat / 2 ^ 16 % 2 ^ 8 = 255
      omega
    refine .inl ⟨hl, ?_⟩
    show s.snk ++ ((some d).toList ++ List.replicate (s.rcPending + 1).toNat 0xFF) = _
    rw [pending_succ hp hfull, List.replicate_succ', decided, hd, hbyte]
    simp

/-- An iteration decides one byte more (10_state R53). -/
theorem encShift_decided_length {s t : State} (hs : carryOk s) (hp : pendingOk s) (hw : ¬ minRange < s.rcRange.toNat)
    (h : encShift s = some t) : (decided t).length = (decided s).length + 1 := by
  rcases encShift_decided hs hp hw h with ⟨-, ht⟩ | ⟨-, d, -, hs, ht⟩
  · simp [ht]
  · simp [hs, ht, Nat.add_assoc]

/-- Adding a carry to a number that ends in 0xFF bytes makes them 0x00. -/
theorem foldBytes_carry (x n : Nat) :
    foldBytes (x + 1) (List.replicate n 0x00) = foldBytes x (List.replicate n 0xFF) + 1 := by
  induction n generalizing x with
  | zero => rfl
  | succ n ih =>
    have hnext : (x + 1) * 256 + (0x00 : Byte).toNat = x * 256 + (0xFF : Byte).toNat + 1 := by
      show (x + 1) * 256 + 0 = x * 256 + 255 + 1
      omega
    rw [List.replicate_succ, List.replicate_succ, foldBytes_cons, foldBytes_cons, hnext, ih]

/-- The bottom of a session's interval as a number of the whole stream: the bytes decided, and RC_LOW with the carry
that may still be added to them. -/
def codeValue (s : State) : Nat := foldBytes 0 (decided s) * 2 ^ 24 + s.rcLow.toNat

/-- An iteration scales the bottom of the interval by 256, whatever byte it decides and whether or not it carries
(40_range_coder R125). -/
theorem encShift_codeValue {s t : State} (hs : carryOk s) (hp : pendingOk s) (hw : ¬ minRange < s.rcRange.toNat)
    (h : encShift s = some t) : codeValue t = codeValue s * 256 := by
  have hlow := encShift_low h
  have hbyte : (topByte s).toNat = s.rcLow.toNat / 2 ^ 16 % 2 ^ 8 := BitVec.toNat_ofNat ..
  have hmax : s.rcLow.toNat < 2 ^ 25 := hs.1
  unfold codeValue
  rcases encShift_decided hs hp hw h with ⟨hl, ht⟩ | ⟨hl, d, hd, hbefore, ht⟩
  · rw [ht, foldBytes_append, foldBytes_cons, foldBytes_nil]
    omega
  · have hnext : (d + 1).toNat = d.toNat + 1 := by bv_omega
    have hcarry : foldBytes 0 (s.snk ++ (d + 1) :: List.replicate s.rcPending.toNat 0x00) =
        foldBytes 0 (decided s) + 1 := by
      rw [hbefore, foldBytes_append, foldBytes_append, foldBytes_cons, foldBytes_cons, hnext, ← Nat.add_assoc]
      exact foldBytes_carry ..
    rw [ht, foldBytes_append, foldBytes_cons, foldBytes_nil, hcarry]
    omega

/-! ### The iterations -/

/-- What EncRenorm relates when it finishes: it changes nothing, or one iteration and the rest (40_range_coder R125). -/
theorem encRenorm_done_induction {P : State → State → Prop} (hwide : ∀ s, minRange < s.rcRange.toNat → P s s)
    (hshift : ∀ s u t, ¬ minRange < s.rcRange.toNat → encShift s = some u → P u t → P s t) {n : Nat} {s t : State}
    (h : encRenorm n s = .done t) : P s t := by
  induction n generalizing s with
  | zero =>
    unfold encRenorm at h
    split at h
    · cases h
      exact hwide _ ‹_›
    · cases h
  | succ n ih =>
    by_cases hw : minRange < s.rcRange.toNat
    · rw [encRenorm_wide hw] at h
      cases h
      exact hwide _ hw
    · rw [encRenorm_narrow hw] at h
      cases hs : encShift s with
      | none => rw [hs] at h; cases h
      | some u => rw [hs] at h; exact hshift s u t hw hs (ih h)

/-- `t` is `s` with its interval scaled `k` times, each scaling deciding one byte (40_range_coder R125). -/
structure Scaled (k : Nat) (s t : State) : Prop where
  range : t.rcRange.toNat = s.rcRange.toNat * 256 ^ k
  low : t.rcLow.toNat = lowAfter s.rcLow.toNat k
  bytes : (decided t).length = (decided s).length + k
  none : k = 0 → t = s

/-- EncRenorm that finishes has scaled the interval as often as its width needs (40_range_coder R125). -/
theorem encRenorm_scaled {n : Nat} {s t : State} (h : encRenorm n s = .done t) :
    carryOk s → pendingOk s → 2 ≤ s.rcRange.toNat → Scaled (shiftsFor s.rcRange.toNat) s t := by
  refine encRenorm_done_induction (P := fun s t => carryOk s → pendingOk s → 2 ≤ s.rcRange.toNat →
    Scaled (shiftsFor s.rcRange.toNat) s t) (fun s hw _ _ _ => ?_) (fun s u t hw hu ih hs hp hr => ?_) h
  · rw [shiftsFor_wide hw]
    exact ⟨by simp, rfl, rfl, fun _ => rfl⟩
  · have hrange := encShift_range hu hw
    obtain ⟨ihrange, ihlow, ihbytes, -⟩ := ih (encShift_carryOk hu) (encShift_pendingOk hp hu) (by omega)
    rw [hrange] at ihrange ihlow ihbytes
    rw [shiftsFor_narrow hr hw]
    refine ⟨?_, ?_, ?_, nofun⟩
    · rw [ihrange, Nat.pow_succ', Nat.mul_assoc]
    · rw [ihlow, encShift_low hu, lowAfter_succ]
    · rw [ihbytes, encShift_decided_length hs hp hw hu]
      omega

end Sys2Proof.Machine

/-! SUPPORT. PENDING_OVERFLOW: which scalings of EncRenorm find the pending counter full, and what RC_ENC_P leaves when
none does (40_range_coder R125, R130, R135). -/

namespace Sys2Proof.Machine

/-! ### A scaling that finds the counter full -/

/-- `s` as a scaling leaves it that finds the counter full with the interval at `low` and `range`. -/
def stalled (low range : Nat) (s : State) : State :=
  { s with
    rcLow := BitVec.ofNat 32 low, rcRange := BitVec.ofNat 32 range, rcPending := BitVec.ofNat 32 (2 ^ s.cfg.pendW - 1) }

/-- PENDING_OVERFLOW is recorded on that state (60_exceptions R272). -/
theorem takeFault_stalled {s : State} (hf : s.faulted = false) (w : Word) (low range : Nat) :
    takeFault w .pendingOverflow (stalled low range s) = overflowed w low range s :=
  takeFault_first (s := stalled low range s) hf

/-- The widths PEND_W may have (00_scope R5): the counter can count, and it fits its register. -/
abbrev pendWOk (s : State) : Prop := 1 ≤ s.cfg.pendW ∧ s.cfg.pendW ≤ 32

theorem full_bounds {s : State} (hw : pendWOk s) : 1 ≤ 2 ^ s.cfg.pendW - 1 ∧ 2 ^ s.cfg.pendW - 1 < 2 ^ 32 := by
  have h1 : 2 ^ 1 ≤ 2 ^ s.cfg.pendW := Nat.pow_le_pow_right (by decide) hw.1
  have h32 : 2 ^ s.cfg.pendW ≤ 2 ^ 32 := Nat.pow_le_pow_right (by decide) hw.2
  omega

section
variable {s : State} {low range : Nat} (hlow : low < 2 ^ 32) (hrange : range < 2 ^ 32)
include hlow hrange

/-- A scaling raises PENDING_OVERFLOW when the carry is undecided and the counter full (40_range_coder R125). -/
theorem encShift_setInterval_eq_none_iff :
    encShift (setInterval low range s) = none ↔
      s.rcDelayed ≠ none ∧ s.rcPending.toNat = 2 ^ s.cfg.pendW - 1 ∧ undecided low range := by
  rw [encShift_eq_none_iff, setInterval_rcLow, setInterval_rcRange, BitVec.toNat_ofNat, BitVec.toNat_ofNat,
    Nat.mod_eq_of_lt hlow, Nat.mod_eq_of_lt hrange, Option.ne_none_iff_exists']
  constructor
  · rintro ⟨d, hd, htop, hbelow, hfull⟩
    exact ⟨⟨d, hd⟩, hfull, hbelow, htop⟩
  · rintro ⟨⟨d, hd⟩, hfull, hbelow, htop⟩
    exact ⟨d, hd, htop, hbelow, hfull⟩

/-- A scaling that leaves the carry undecided fills a counter that is one short of full (40_range_coder R125). -/
theorem encShift_fills (hw : pendWOk s) (hd : s.rcDelayed ≠ none) (hp : s.rcPending.toNat + 1 = 2 ^ s.cfg.pendW - 1)
    (hu : undecided low range) :
    encShift (setInterval low range s) = some (stalled (lowAfter low 1) (range * 256) s) := by
  obtain ⟨d, hd⟩ := Option.ne_none_iff_exists'.1 hd
  have hl : (setInterval low range s).rcLow.toNat = low := by simp; omega
  have hr : (setInterval low range s).rcRange.toNat = range := by simp; omega
  have hnext : low % 2 ^ 16 * 2 ^ 8 = lowAfter low 1 := by
    show _ = low * 256 % 2 ^ 24
    omega
  have hpending : s.rcPending + 1 = BitVec.ofNat 32 (2 ^ s.cfg.pendW - 1) := by
    have := full_bounds hw
    rw [← hp]
    bv_omega
  rw [encShift_undecided (s := setInterval low range s) hd (by rwa [hl, hr]), if_neg, shiftInterval, setCarry_rcLow,
    setCarry_rcRange, hl, hr, hnext, stalled, ← hpending, ← hd]
  · rfl
  · show s.rcPending.toNat ≠ 2 ^ s.cfg.pendW - 1
    omega

/-- Only such a scaling leaves a full counter: every other one empties it or finds it empty (40_range_coder R125). -/
theorem nearly_full_of_encShift {a : State} (hw : pendWOk s) (hnone : s.rcDelayed = none → s.rcPending = 0)
    (h : encShift (setInterval low range s) = some a) (hfull : a.rcPending.toNat = 2 ^ a.cfg.pendW - 1) :
    s.rcDelayed ≠ none ∧ s.rcPending.toNat + 1 = 2 ^ s.cfg.pendW - 1 ∧ undecided low range := by
  have hb := full_bounds hw
  have hl : (setInterval low range s).rcLow.toNat = low := by simp; omega
  have hr : (setInterval low range s).rcRange.toNat = range := by simp; omega
  rcases encShift_cases h with ⟨hd, rfl⟩ | ⟨d, -, -, rfl⟩ | ⟨d, -, -, rfl⟩ | ⟨d, hd, htop, hbelow, -, rfl⟩
  · have hzero : s.rcPending = 0 := hnone hd
    have hfull : s.rcPending.toNat = 2 ^ s.cfg.pendW - 1 := hfull
    rw [hzero] at hfull
    exact absurd hfull.symm (Nat.ne_of_gt hb.1)
  · exact absurd hfull.symm (Nat.ne_of_gt hb.1)
  · exact absurd hfull.symm (Nat.ne_of_gt hb.1)
  · have hfull : (s.rcPending + 1).toNat = 2 ^ s.cfg.pendW - 1 := hfull
    rw [hl, hr] at htop
    rw [hl] at hbelow
    have hsome : s.rcDelayed = some d := hd
    refine ⟨by simp [hsome], ?_, hbelow, htop⟩
    have hone : (1 : Word).toNat = 1 := rfl
    rw [BitVec.toNat_add, hone] at hfull
    omega

end

theorem setInterval_self (s : State) : setInterval s.rcLow.toNat s.rcRange.toNat s = s := by simp [setInterval]

/-- With a full counter a state differs from `stalled` in its interval only. -/
theorem setInterval_of_full {s : State} (hfull : s.rcPending.toNat = 2 ^ s.cfg.pendW - 1) (low range : Nat) :
    setInterval low range s = stalled low range s := by
  rw [stalled, ← hfull, BitVec.ofNat_toNat]
  rfl

/-- A second scaling, from the width `range'`, raises PENDING_OVERFLOW when both leave the carry undecided and the first
fills the counter (40_range_coder R125). -/
theorem second_stalls_iff {s u : State} {low range range' : Nat} (hlow : low < 2 ^ 32) (hrange : range < 2 ^ 32)
    (hrange' : range' < 2 ^ 32) (hw : pendWOk s) (hnone : s.rcDelayed = none → s.rcPending = 0) :
    (∃ a, encShift (setInterval low range s) = some a ∧ encShift (setInterval a.rcLow.toNat range' a) = none ∧
      u = setInterval a.rcLow.toNat range' a) ↔
    s.rcDelayed ≠ none ∧ s.rcPending.toNat + 1 = 2 ^ s.cfg.pendW - 1 ∧ undecided low range ∧
      undecided (lowAfter low 1) range' ∧ u = stalled (lowAfter low 1) range' s := by
  have hnext : lowAfter low 1 < 2 ^ 32 := by
    have : low * 256 % 2 ^ 24 < 2 ^ 32 := by omega
    exact this
  have hfills (hd hp hu) : encShift (setInterval low range s) = _ := encShift_fills hlow hrange hw hd hp hu
  have hresume : ∀ range, setInterval (stalled (lowAfter low 1) range s).rcLow.toNat range'
      (stalled (lowAfter low 1) range s) = stalled (lowAfter low 1) range' s := fun range => by
    rw [stalled, BitVec.toNat_ofNat, Nat.mod_eq_of_lt hnext]
    rfl
  have hfull : (stalled (lowAfter low 1) range' s).rcPending.toNat = 2 ^ s.cfg.pendW - 1 := by
    rw [stalled, BitVec.toNat_ofNat, Nat.mod_eq_of_lt (full_bounds hw).2]
  constructor
  · rintro ⟨a, ha, hstall, rfl⟩
    obtain ⟨-, hpending, hu'⟩ := (encShift_setInterval_eq_none_iff (BitVec.isLt _) hrange').1 hstall
    obtain ⟨hd, hp, hu⟩ := nearly_full_of_encShift hlow hrange hw hnone ha hpending
    obtain rfl := Option.some.inj ((hfills hd hp hu).symm.trans ha)
    rw [stalled, BitVec.toNat_ofNat, Nat.mod_eq_of_lt hnext] at hu'
    exact ⟨hd, hp, hu, hu', hresume _⟩
  · rintro ⟨hd, hp, hu, hu', rfl⟩
    refine ⟨_, hfills hd hp hu, ?_, (hresume _).symm⟩
    rw [hresume]
    have hsame : stalled (lowAfter low 1) range' s =
        setInterval (lowAfter low 1) range' (stalled (lowAfter low 1) range' s) := rfl
    rw [hsame, encShift_setInterval_eq_none_iff hnext hrange']
    exact ⟨hd, hfull, hu'⟩

/-! ### EncRenorm that overflows -/

/-- EncRenorm raises PENDING_OVERFLOW in its first scaling, or in one of those after it (40_range_coder R125). -/
theorem encRenorm_overflow_cases {n : Nat} {s u : State} (h : encRenorm n s = .overflow u) :
    ¬ minRange < s.rcRange.toNat ∧ ((encShift s = none ∧ u = s) ∨
      ∃ m a, encShift s = some a ∧ encRenorm m a = .overflow u) := by
  have hw : ¬ minRange < s.rcRange.toNat := fun hw => by simp [encRenorm_wide hw] at h
  refine ⟨hw, ?_⟩
  cases n with
  | zero =>
    unfold encRenorm at h
    rw [if_neg hw] at h
    cases h
  | succ n =>
    rw [encRenorm_narrow hw] at h
    cases hs : encShift s with
    | none => rw [hs] at h; cases h; exact .inl ⟨rfl, rfl⟩
    | some a => rw [hs] at h; exact .inr ⟨n, a, rfl, h⟩

/-- With RC_RANGE 0 the carry is never undecided (40_range_coder R125). -/
theorem encRenorm_overflow_pos {n : Nat} {s u : State} (h : encRenorm n s = .overflow u) : 0 < s.rcRange.toNat := by
  induction n generalizing s with
  | zero =>
    unfold encRenorm at h
    split at h <;> cases h
  | succ n ih =>
    by_cases hw : minRange < s.rcRange.toNat
    · exact Nat.zero_lt_of_lt hw
    · rw [encRenorm_narrow hw] at h
      cases hs : encShift s with
      | none =>
        obtain ⟨d, -, htop, hbelow, -⟩ := (encShift_eq_none_iff s).1 hs
        omega
      | some a =>
        rw [hs] at h
        have := ih h
        rw [encShift_range hs hw] at this
        omega

theorem forall_le_one_iff {P : Nat → Prop} : (∀ i ≤ 1, P i) ↔ P 0 ∧ P 1 := by
  refine ⟨fun h => ⟨h 0 (by decide), h 1 le_rfl⟩, fun ⟨h0, h1⟩ i hi => ?_⟩
  interval_cases i
  · exact h0
  · exact h1

theorem overflowsAt_zero_iff (s : State) (low range : Nat) :
    overflowsAt s low range 0 ↔
      s.rcDelayed ≠ none ∧ s.rcPending.toNat = 2 ^ s.cfg.pendW - 1 ∧ range ≤ 2 ^ 16 ∧ undecided low range := by
  simp [overflowsAt, lowAfter]

theorem overflowsAt_one_iff (s : State) (low range : Nat) :
    overflowsAt s low range 1 ↔
      s.rcDelayed ≠ none ∧ s.rcPending.toNat + 1 = 2 ^ s.cfg.pendW - 1 ∧
        (range ≤ 2 ^ 16 ∧ undecided low range) ∧
        (range * 256 ≤ 2 ^ 16 ∧ undecided (lowAfter low 1) (range * 256)) := by
  rw [overflowsAt, forall_le_one_iff, Nat.pow_zero, Nat.mul_one, Nat.pow_one]
  rfl

/-- An interval of at least 2 needs no third scaling, so EncRenorm raises PENDING_OVERFLOW in the first or the second
(40_range_coder R122, R125). -/
theorem encRenorm_three_overflow_iff {s u : State} (hr : 2 ≤ s.rcRange.toNat) :
    encRenorm 3 s = .overflow u ↔ ¬ minRange < s.rcRange.toNat ∧ ((encShift s = none ∧ u = s) ∨
      ∃ a, encShift s = some a ∧ ¬ minRange < a.rcRange.toNat ∧ encShift a = none ∧ u = a) := by
  constructor
  · intro h
    obtain ⟨hw, hfirst | ⟨m, a, ha, h⟩⟩ := encRenorm_overflow_cases h
    · exact ⟨hw, .inl hfirst⟩
    · obtain ⟨hw', hsecond | ⟨m, b, hb, h⟩⟩ := encRenorm_overflow_cases h
      · exact ⟨hw, .inr ⟨a, ha, hw', hsecond⟩⟩
      · obtain ⟨hw'', -⟩ := encRenorm_overflow_cases h
        rw [encShift_range hb hw', encShift_range ha hw] at hw''
        unfold minRange at hw''
        omega
  · rintro ⟨hw, ⟨hs, rfl⟩ | ⟨a, ha, hw', hs, rfl⟩⟩
    · rw [encRenorm_narrow hw, hs]
    · rw [encRenorm_narrow hw, ha]
      dsimp only
      rw [encRenorm_narrow hw', hs]

/-- EncRenorm raises PENDING_OVERFLOW exactly in a first or second scaling that finds the counter full, and leaves the
interval as it was before that scaling (40_range_coder R125). -/
theorem encRenorm_overflow_iff {s u : State} {low range : Nat} (hlow : low < 2 ^ 32) (hr : 2 ≤ range)
    (hrange : range < 2 ^ 32) (hw : pendWOk s) (hnone : s.rcDelayed = none → s.rcPending = 0) :
    encRenorm 3 (setInterval low range s) = .overflow u ↔
      ∃ j ≤ 1, overflowsAt s low range j ∧ u = stalled (lowAfter low j) (range * 256 ^ j) s := by
  have hv : (setInterval low range s).rcRange.toNat = range := by simp; omega
  rw [encRenorm_three_overflow_iff (by omega), hv]
  constructor
  · rintro ⟨hnarrow, ⟨hstall, rfl⟩ | ⟨a, ha, hnarrow', hstall, rfl⟩⟩
    · obtain ⟨hd, hfull, hu⟩ := (encShift_setInterval_eq_none_iff hlow hrange).1 hstall
      refine ⟨0, by decide, (overflowsAt_zero_iff ..).2 ⟨hd, hfull, Nat.not_lt.1 hnarrow, hu⟩, ?_⟩
      rw [setInterval_of_full hfull, Nat.pow_zero, Nat.mul_one]
      rfl
    · have ha' : u.rcRange.toNat = range * 256 := hv ▸ encShift_range ha (by rwa [hv])
      rw [ha'] at hnarrow'
      obtain ⟨hd, hp, hu, hu', he⟩ := (second_stalls_iff (u := u) hlow hrange u.rcRange.isLt hw hnone).1
        ⟨u, ha, by rwa [setInterval_self], (setInterval_self u).symm⟩
      rw [ha'] at hu' he
      rw [← Nat.pow_one 256] at he
      exact ⟨1, le_rfl, (overflowsAt_one_iff ..).2 ⟨hd, hp, ⟨Nat.not_lt.1 hnarrow, hu⟩, Nat.not_lt.1 hnarrow', hu'⟩, he⟩
  · rintro ⟨j, hj, ho, rfl⟩
    obtain rfl | rfl : j = 0 ∨ j = 1 := by omega
    · obtain ⟨hd, hfull, hnarrow, hu⟩ := (overflowsAt_zero_iff ..).1 ho
      refine ⟨Nat.not_lt.2 hnarrow, .inl ⟨(encShift_setInterval_eq_none_iff hlow hrange).2 ⟨hd, hfull, hu⟩, ?_⟩⟩
      rw [setInterval_of_full hfull, Nat.pow_zero, Nat.mul_one]
      rfl
    · obtain ⟨hd, hp, ⟨hnarrow, hu⟩, hnarrow', hu'⟩ := (overflowsAt_one_iff ..).1 ho
      obtain ⟨a, ha, hstall, hlast⟩ :=
        (second_stalls_iff hlow hrange (range' := range * 256) (by omega) hw hnone).2 ⟨hd, hp, hu, hu', rfl⟩
      have ha' : a.rcRange.toNat = range * 256 := hv ▸ encShift_range ha (by rw [hv]; exact Nat.not_lt.2 hnarrow)
      rw [← ha', setInterval_self] at hstall hlast
      refine ⟨Nat.not_lt.2 hnarrow, .inr ⟨a, ha, by rw [ha']; exact Nat.not_lt.2 hnarrow', hstall, ?_⟩⟩
      rw [← hlast, ha', Nat.pow_one]

/-! ### RC_ENC_P -/

section
variable {s : State} {p : Nat} (bit : Bool) (hs : encOk s) (hp : 1 ≤ p) (hp' : p ≤ 4095)
include hs hp hp'

/-- The interval of a bit fits the registers (10_state R52, 40_range_coder R124). -/
theorem bitInterval_bounds : bitLow s p bit < 2 ^ 32 ∧ 16 ≤ bitRange s p bit ∧ bitRange s p bit ≤ 2 ^ 24 := by
  obtain ⟨⟨hr, hr'⟩, htop, -⟩ := hs
  have hb := bitRange_bounds bit hp hp' hr
  refine ⟨?_, hb.1, hb.2.trans hr'⟩
  unfold bitLow
  split <;> omega

/-- When coding a bit raises PENDING_OVERFLOW, and what it leaves (40_range_coder R124, R125). -/
theorem encodeBit_overflow_iff (hw : pendWOk s) (u : State) :
    encodeBit p bit s = .overflow u ↔ ∃ j ≤ 1, overflowsAt s (bitLow s p bit) (bitRange s p bit) j ∧
      u = stalled (lowAfter (bitLow s p bit) j) (bitRange s p bit * 256 ^ j) s := by
  obtain ⟨hlow, hr, hr'⟩ := bitInterval_bounds bit hs hp hp'
  obtain ⟨-, -, hnone, -⟩ := hs
  rw [encodeBit, encSplit_eq]
  exact encRenorm_overflow_iff hlow (by omega) (by omega) hw fun h => (hnone h).1

/-- What coding a bit leaves when it finishes (40_range_coder R124, R125). -/
theorem encodeBit_scaled (hpending : pendingOk s) {t : State} (h : encodeBit p bit s = .done t) :
    Scaled (shiftsFor (bitRange s p bit)) (setInterval (bitLow s p bit) (bitRange s p bit) s) t := by
  obtain ⟨-, hr, hr'⟩ := bitInterval_bounds bit hs hp hp'
  have hrenorm := encSplit_renormOk bit hs hp hp'
  rw [encodeBit, encSplit_eq] at h
  rw [encSplit_eq] at hrenorm
  have hv : (setInterval (bitLow s p bit) (bitRange s p bit) s).rcRange.toNat = bitRange s p bit := by simp; omega
  have hscaled := encRenorm_scaled h hrenorm.carryOk hpending (by omega)
  rwa [hv] at hscaled

end

/-- Settles O33: coding the bit ends, since its interval is not 0, and does not overflow; it leaves the scaled interval
with the bytes decided. -/
theorem rcEncPCodesTheBit : Obligations.RcEncPCodesTheBit := by
  intro s bit p hf hm hs hw hw' hpending hp hp' low range k hno
  obtain ⟨hlow, hr, hr'⟩ := bitInterval_bounds bit hs hp hp'
  cases he : encodeBit p bit s with
  | hang => exact absurd he (encodeBit_ne_hang bit hp hp' hs.1.1)
  | overflow u =>
    obtain ⟨j, hj, ho, -⟩ := (encodeBit_overflow_iff bit hs hp hp' ⟨hw, hw'⟩ u).1 he
    exact absurd ho (hno j hj)
  | done t =>
    obtain ⟨hrange, hlow', hbytes, hsame⟩ := encodeBit_scaled bit hs hp hp' ⟨hw', hpending⟩ he
    have hok : encOk t := encodeBit_encOk hs hp hp' he
    have hframe := encodeBit_frame (.inl he)
    obtain ⟨bs, hsnk, hout⟩ := encRenorm_bytes (.inl he)
    rw [encSplit_eq, setInterval_snk] at hsnk
    rw [encSplit_eq, setInterval_bytesOut] at hout
    rw [decided_length, decided_setInterval, decided_length] at hbytes
    rw [setInterval_rcRange, BitVec.toNat_ofNat, Nat.mod_eq_of_lt (by omega)] at hrange
    rw [setInterval_rcLow, BitVec.toNat_ofNat, Nat.mod_eq_of_lt hlow] at hlow'
    refine ⟨respondOk [] t, ?_, ?_, ?_, ?_, ?_, ?_, hok, hrange, hlow', hbytes, ?_, fun hk => ?_⟩
    · rw [exec_rcEncP_of_ok hf hm (by omega), he]
      rfl
    · rw [answered, hframe]
      rfl
    · rw [frameEncode, hframe]
      rfl
    · rw [hframe]
      exact hf
    · rw [hframe]
      rfl
    · rw [hframe]
      rfl
    · simp [hsnk, hout]
    · rw [hsame hk]
      exact ⟨rfl, rfl, rfl⟩

end Sys2Proof.Machine

/-! SUPPORT. RC_FLUSH: its four shifts, of which the first two may find the pending counter full, and what they leave
(40_range_coder R132, R135). -/

namespace Sys2Proof.Machine

/-! ### One shift -/

/-- A shift of RC_FLUSH starts its iteration from the width 0xFFFF (40_range_coder R132). -/
def flushInput (s : State) : State := setInterval s.rcLow.toNat flushRange s

theorem flushInput_low (s : State) : (flushInput s).rcLow.toNat = s.rcLow.toNat := by simp [flushInput]

theorem flushInput_range (s : State) : (flushInput s).rcRange.toNat = 0xFFFF := by simp [flushInput, flushRange]

theorem flushInput_narrow (s : State) : ¬ minRange < (flushInput s).rcRange.toNat := by
  rw [flushInput_range]
  decide

theorem flushShift_of_none {s : State} (h : encShift (flushInput s) = none) :
    flushShift s = .overflow (flushInput s) := by
  rw [flushShift, ← flushInput, encRenorm_narrow (flushInput_narrow s), h]

/-- One iteration is enough for the width 0xFFFF (40_range_coder R132). -/
theorem flushShift_of_some {s t : State} (h : encShift (flushInput s) = some t) : flushShift s = .done t := by
  have ht := encShift_range h (flushInput_narrow s)
  rw [flushShift, ← flushInput, encRenorm_narrow (flushInput_narrow s), h]
  exact encRenorm_wide (by rw [ht, flushInput_range]; decide) 2

theorem flushShift_done_iff {s t : State} : flushShift s = .done t ↔ encShift (flushInput s) = some t := by
  refine ⟨fun h => ?_, flushShift_of_some⟩
  cases hs : encShift (flushInput s) with
  | none => simp [flushShift_of_none hs] at h
  | some u => simpa [flushShift_of_some hs] using h

/-- Each shift decides one byte and scales the bottom of the interval (40_range_coder R125, R132). -/
theorem flushShifts_decides {n : Nat} {s t : State} (hs : carryOk s) (hp : pendingOk s)
    (h : flushShifts n s = .done t) :
    (decided t).length = (decided s).length + n ∧ codeValue t = codeValue s * 256 ^ n := by
  induction n generalizing s with
  | zero =>
    cases h
    simp
  | succ n ih =>
    unfold flushShifts at h
    cases hu : flushShift s with
    | overflow u => simp [hu, thenEnc] at h
    | hang => simp [hu, thenEnc] at h
    | done u =>
      rw [hu] at h
      have hu := flushShift_done_iff.1 hu
      have hin : carryOk (flushInput s) := by rw [carryOk, flushInput_low]; exact hs
      obtain ⟨hlen, hcode⟩ := ih (encShift_carryOk hu) (encShift_pendingOk (s := flushInput s) hp hu) h
      have hsame : codeValue (flushInput s) = codeValue s := by rw [codeValue, flushInput_low]; rfl
      rw [hlen, hcode, encShift_decided_length hin hp (flushInput_narrow s) hu,
        encShift_codeValue hin hp (flushInput_narrow s) hu, hsame, Nat.pow_succ', Nat.mul_assoc]
      exact ⟨Nat.add_right_comm .., rfl⟩

/-- Every byte written to the sink since `s` has been counted (10_state R40). -/
def BytesCounted (s t : State) : Prop :=
  ∃ bs, t.snk = s.snk ++ bs ∧ t.bytesOut = s.bytesOut + BitVec.ofNat 32 bs.length

/-- What the shifts write to the sink is what they add to BYTES_OUT (10_state R40). -/
theorem flushShifts_bytes {n : Nat} {s t : State} (h : flushShifts n s = .done t) : BytesCounted s t := by
  refine flushShifts_keeps (P := BytesCounted s) (fun _ _ _ h => h) (fun u v ⟨as, ha, hb⟩ hv => ?_)
    ⟨[], by simp⟩ (.inl h)
  obtain ⟨bs, hc, hd⟩ := encShift_bytes hv
  exact ⟨as ++ bs, by simp [hc, ha], by simp [hd, hb, BitVec.ofNat_add, BitVec.add_assoc]⟩

/-! ### The four shifts -/

/-- With a delayed byte and an RC_LOW that no carry can come from, a shift writes what is held back
(40_range_coder R125, R132). -/
theorem flushShift_settles {s : State} (hd : s.rcDelayed ≠ none) (hl : s.rcLow.toNat + 0xFFFF < 2 ^ 24) :
    ∃ d, flushShift s = .done (shiftInterval (emitDelayed d 0xFF (topByte (flushInput s)) (flushInput s))) := by
  obtain ⟨d, hd⟩ := Option.ne_none_iff_exists'.1 hd
  have hl' : (flushInput s).rcLow.toNat + (flushInput s).rcRange.toNat < 2 ^ 24 := by
    rwa [flushInput_low, flushInput_range]
  exact ⟨d, flushShift_of_some (encShift_noCarry (s := flushInput s) hd hl')⟩

/-- What RC_FLUSH leaves in the encoder's registers: nothing pending and a delayed 0x00 (40_range_coder R132). -/
structure Flushed (t : State) : Prop where
  low : t.rcLow = 0
  range : t.rcRange = 0x00FFFF00
  pending : t.rcPending = 0
  delayed : t.rcDelayed = some 0x00

/-- RC_LOW is a multiple of 2^16 before the last two shifts, so no carry is undecided, and the bytes they delay are the
last of it and a 0x00 (40_range_coder R132). -/
theorem flush_last_two {s : State} (hd : s.rcDelayed ≠ none) (hl : s.rcLow.toNat < 2 ^ 24)
    (hl' : s.rcLow.toNat % 2 ^ 16 = 0) : ∃ t, flushShifts 2 s = .done t ∧ Flushed t := by
  obtain ⟨d, hu⟩ := flushShift_settles hd (by omega)
  generalize hu' : shiftInterval (emitDelayed d 0xFF (topByte (flushInput s)) (flushInput s)) = u at hu
  have hlow : u.rcLow.toNat = 0 := by
    rw [encShift_low (flushShift_done_iff.1 hu), flushInput_low]
    omega
  obtain ⟨d', ht⟩ := flushShift_settles (s := u) (by rw [← hu']; nofun) (by rw [hlow]; decide)
  have hzero : (flushInput u).rcLow.toNat = 0 := by rw [flushInput_low, hlow]
  have hdone : flushShifts 2 s =
      .done (shiftInterval (emitDelayed d' 0xFF (topByte (flushInput u)) (flushInput u))) := by
    rw [flushShifts, hu, thenEnc, flushShifts, ht, thenEnc, flushShifts]
  refine ⟨_, hdone, ?_, ?_, rfl, ?_⟩
  · show BitVec.ofNat 32 ((flushInput u).rcLow.toNat % 2 ^ 16 * 2 ^ 8) = 0
    rw [hzero]
    rfl
  · show BitVec.ofNat 32 ((flushInput u).rcRange.toNat * 2 ^ 8) = 0x00FFFF00
    rw [flushInput_range]
    rfl
  · show some (BitVec.ofNat 8 ((flushInput u).rcLow.toNat / 2 ^ 16)) = some 0x00
    rw [hzero]
    rfl

/-- After two shifts that finish, so do the other two (40_range_coder R132). -/
theorem flushShifts_four {s a b : State} (ha : flushShift s = .done a) (hb : flushShift a = .done b) :
    ∃ t, flushShifts 4 s = .done t ∧ Flushed t := by
  have halow := encShift_low (flushShift_done_iff.1 ha)
  have hblow := encShift_low (flushShift_done_iff.1 hb)
  rw [flushInput_low] at halow hblow
  have hlast := flush_last_two (encShift_delayed (flushShift_done_iff.1 hb)) (by omega) (by omega)
  rwa [flushShifts, ha, thenEnc, flushShifts, hb, thenEnc]

theorem flushOverflowsAt_zero_iff (s : State) :
    flushOverflowsAt s 0 ↔ s.rcDelayed ≠ none ∧ s.rcPending.toNat = 2 ^ s.cfg.pendW - 1 ∧
      undecided (s.rcLow.toNat + 0xFFFF) 0xFFFF := by
  simp [flushOverflowsAt, lowAfter]

theorem flushOverflowsAt_one_iff (s : State) :
    flushOverflowsAt s 1 ↔ s.rcDelayed ≠ none ∧ s.rcPending.toNat + 1 = 2 ^ s.cfg.pendW - 1 ∧
      undecided (s.rcLow.toNat + 0xFFFF) 0xFFFF ∧
      undecided (lowAfter (s.rcLow.toNat + 0xFFFF) 1) 0xFFFF := by
  rw [flushOverflowsAt, forall_le_one_iff]
  rfl

theorem setInterval_setInterval (low low' range range' : Nat) (s : State) :
    setInterval low' range' (setInterval low range s) = setInterval low' range' s :=
  rfl

@[simp] theorem flushStart_rcDelayed (s : State) : (flushStart s).rcDelayed = s.rcDelayed := by
  rw [flushStart, setInterval_rcDelayed]

@[simp] theorem flushStart_rcPending (s : State) : (flushStart s).rcPending = s.rcPending := by
  rw [flushStart, setInterval_rcPending]

theorem flushStart_pendingOk {s : State} (hs : pendingOk s) : pendingOk (flushStart s) := by
  rw [pendingOk, flushStart_rcPending, flushStart, setInterval_cfg]
  exact hs

section
variable {s : State} (hs : encOk s)
include hs

theorem flushStart_low : (flushStart s).rcLow.toNat = s.rcLow.toNat + 0xFFFF := by
  obtain ⟨-, htop, -⟩ := hs
  rw [flushStart, setInterval_rcLow, BitVec.toNat_ofNat, flushRange]
  omega

/-- The carry that adding 0xFFFF to RC_LOW may give does not wrap either (40_range_coder R125, R132). -/
theorem flushStart_carryOk : carryOk (flushStart s) := by
  have hlow := flushStart_low hs
  obtain ⟨⟨hr, -⟩, htop, hnone, hff⟩ := hs
  rw [carryOk, flushStart_rcDelayed, flushStart_rcPending]
  refine ⟨by omega, fun h => ?_, fun h => ?_⟩
  · obtain ⟨hp, hl⟩ := hnone h
    exact ⟨hp, by omega⟩
  · have := hff h
    omega

theorem flushInput_flushStart :
    flushInput (flushStart s) = setInterval (s.rcLow.toNat + 0xFFFF) 0xFFFF s := by
  rw [flushInput, flushStart_low hs, flushStart, setInterval_setInterval, flushRange]

/-- RC_FLUSH raises PENDING_OVERFLOW in its first or second shift when that finds the counter full, and otherwise
finishes (40_range_coder R125, R132). -/
theorem flush_cases (hw : pendWOk s) :
    (∃ j ≤ 1, flushOverflowsAt s j ∧
      flushShifts 4 (flushStart s) = .overflow (stalled (lowAfter (s.rcLow.toNat + 0xFFFF) j) 0xFFFF s)) ∨
    ((∀ j ≤ 1, ¬ flushOverflowsAt s j) ∧ ∃ t, flushShifts 4 (flushStart s) = .done t ∧ Flushed t) := by
  have hin := flushInput_flushStart hs
  obtain ⟨⟨hr, -⟩, htop, hnone, -⟩ := hs
  have hlow : s.rcLow.toNat + 0xFFFF < 2 ^ 32 := by omega
  have hfirst := encShift_setInterval_eq_none_iff (s := s) hlow (range := 0xFFFF) (by decide)
  have hsecond (u : State) := second_stalls_iff (s := s) (u := u) hlow (range := 0xFFFF) (by decide)
    (range' := 0xFFFF) (by decide) hw fun h => (hnone h).1
  rw [forall_le_one_iff, flushOverflowsAt_zero_iff, flushOverflowsAt_one_iff]
  cases ha : encShift (flushInput (flushStart s)) with
  | none =>
    have hstall := hfirst.1 (hin ▸ ha)
    refine .inl ⟨0, by decide, (flushOverflowsAt_zero_iff s).2 hstall, ?_⟩
    rw [flushShifts, flushShift_of_none ha, thenEnc, hin, setInterval_of_full hstall.2.1]
    rfl
  | some a =>
    cases hb : encShift (flushInput a) with
    | none =>
      obtain ⟨hd, hp, hu, hu', he⟩ := (hsecond _).1 ⟨a, hin ▸ ha, hb, rfl⟩
      refine .inl ⟨1, le_rfl, (flushOverflowsAt_one_iff s).2 ⟨hd, hp, hu, hu'⟩, ?_⟩
      rw [flushShifts, flushShift_of_some ha, thenEnc, flushShifts, flushShift_of_none hb, thenEnc, ← he]
      rfl
    | some b =>
      refine .inr ⟨⟨fun h => ?_, fun ⟨hd, hp, hu, hu'⟩ => ?_⟩,
        flushShifts_four (flushShift_of_some ha) (flushShift_of_some hb)⟩
      · rw [← hin, ha] at hfirst
        exact nomatch hfirst.2 h
      · obtain ⟨a', ha', hb', -⟩ := (hsecond _).2 ⟨hd, hp, hu, hu', rfl⟩
        rw [← hin, ha] at ha'
        cases ha'
        exact nomatch hb.symm.trans hb'

end

/-- Settles O37: the four shifts finish, each deciding one byte, and all but the last 0x00 is written. -/
theorem rcFlushEndsTheSession : Obligations.RcFlushEndsTheSession := by
  intro s hf hm hs hw hw' hpending hno
  obtain ⟨j, hj, ho, -⟩ | ⟨-, t, ht, ⟨hlow, hrange, hzero, hdelayed⟩⟩ := flush_cases hs ⟨hw, hw'⟩
  · exact absurd ho (hno j hj)
  have hframe : frameCoder s t := (setInterval_frame _ _ _).trans (flushShifts_frame (.inl ht))
  obtain ⟨hlen, -⟩ := flushShifts_decides (flushStart_carryOk hs) (flushStart_pendingOk ⟨hw', hpending⟩) ht
  obtain ⟨bs, hsnk, hout⟩ := flushShifts_bytes ht
  rw [flushStart, setInterval_snk] at hsnk
  rw [flushStart, setInterval_bytesOut] at hout
  have hheld : unwritten t = 1 := by simp [unwritten, hdelayed, hzero]
  rw [decided_length, hheld, flushStart, decided_setInterval, decided_length] at hlen
  refine ⟨respondOk [] (setMode .idle t), ?_, ?_, ?_, ?_, ?_, ?_, hlow, hrange, hzero, hdelayed, ?_, ?_⟩
  · rw [exec_rcFlush_of_ok hf hm, ht]
    rfl
  · rw [answered, hframe]
    rfl
  · rw [frameEncode, hframe]
    rfl
  · rw [hframe]
    exact hf
  · rw [hframe]
    rfl
  · rw [hframe]
    rfl
  · show t.snk.length = _
    omega
  · simp [hsnk, hout]

end Sys2Proof.Machine

/-! SUPPORT. Which commands raise PENDING_OVERFLOW, and what they leave (40_range_coder R125, R130, R132,
41_bit_chance R168, 60_exceptions R272, R274). -/

namespace Sys2Proof.Machine

/-! ### Only a command that encodes raises it -/

/-- How the encoding ends that a command makes once its checks have passed (40_range_coder R130, R132;
41_bit_chance R168). -/
def encodingOf (i : Instr) (s : State) : Option EncEnd :=
  match i with
  | .rcEncP bit p => some (encodeBit p bit s)
  | .encCtx _ bit ctx => some (encodeBit (ctxRead s ctx).toNat bit s)
  | .rcFlush => some (flushShifts 4 (flushStart s))
  | _ => none

/-- If the command `i` answered PENDING_OVERFLOW in `t`, its encoding raised it (40_range_coder R125). -/
def OverflowEncoding (i : Instr) (s t : State) : Prop :=
  answered s t (.fault .pendingOverflow) →
    ∃ u, encodingOf i s = some (.overflow u) ∧ t = takeFault (encodeWord i) .pendingOverflow u

section
variable {i : Instr} {s t : State}

theorem overflowEncoding_of_silent (h : t.resp = s.resp) : OverflowEncoding i s t := fun ha => by
  simp [answered, h] at ha

theorem overflowEncoding_of_ok {ws : List Word} (h : answered s t (.ok ws)) : OverflowEncoding i s t := fun ha => by
  simp [answered, h] at ha

theorem overflowEncoding_of_fault {c : Cause} (h : answered s t (.fault c)) (hc : c ≠ .pendingOverflow) :
    OverflowEncoding i s t := fun ha => by
  simp [answered, h, hc] at ha

theorem unlessFaulted_overflowEncoding {w : Word} {body : Result} (h : Ensures (OverflowEncoding i s) body) :
    Ensures (OverflowEncoding i s) (unlessFaulted w s body) :=
  ensures_unlessFaulted (fun _ => overflowEncoding_of_fault rfl (by decide)) fun _ => h

theorem check_overflowEncoding {p : Prop} [Decidable p] {w : Word} {c : Cause} {rest : Result}
    (h : Ensures (OverflowEncoding i s) rest) (hc : c ≠ .pendingOverflow := by decide) :
    Ensures (OverflowEncoding i s) (if p then raiseFault w c s else rest) :=
  ensures_check (fun _ => overflowEncoding_of_fault rfl hc) fun _ => h

theorem checkNext_overflowEncoding {k : Nat} {st : BitVec 12} {w : Word} {rest : BitVec 12 × BitVec 12 → Result}
    (h : ∀ n, Ensures (OverflowEncoding i s) (rest n)) :
    Ensures (OverflowEncoding i s)
      (match checkNext s k st with | .error c => raiseFault w c s | .ok n => rest n) := by
  refine ensures_checkNext (fun c hc => overflowEncoding_of_fault rfl ?_) fun n _ => h n
  rcases checkNext_error hc with ⟨rfl, -⟩ | ⟨rfl, -⟩ <;> decide

theorem finishEnc_overflowEncoding {e : EncEnd} {after : State → State} (he : encodingOf i s = some e)
    (hd : ∀ u, e = .done u → (after u).resp = s.resp) :
    Ensures (OverflowEncoding i s) (finishEnc (encodeWord i) e after) :=
  ensures_finishEnc (fun u hu => overflowEncoding_of_ok (congrArg (· ++ _) (hd u hu))) fun u hu _ => ⟨u, hu ▸ he, rfl⟩

/-- A decode answers a bit, or STREAM_TRUNCATED, or holds (20_memory R73, R74). -/
theorem settleDecode_overflowEncoding (h : t.resp = s.resp) (w : Word) (bit : Bool) (u : Option (Nat × BitVec 12)) :
    OverflowEncoding i s (settleDecode w bit u t) := by
  rcases settleDecode_cases w bit u t with ⟨-, he⟩ | ⟨-, -, he⟩ | ⟨-, -, he⟩
  · rw [he]
    cases u with
    | none => exact overflowEncoding_of_ok (congrArg (· ++ _) h)
    | some x => exact overflowEncoding_of_ok (congrArg (· ++ _) h)
  · rw [he]
    exact overflowEncoding_of_fault (congrArg (· ++ _) h) (by decide)
  · rw [he]
    exact overflowEncoding_of_silent h

theorem decodeWith_overflowEncoding (w : Word) (p : Nat) (next : Bool → Option (Nat × BitVec 12)) :
    OverflowEncoding i s (decodeWith w p next s) :=
  settleDecode_overflowEncoding ((decSplit_frame p s).trans (decRefill_frame ..)).resp w _ _

theorem settleStart_overflowEncoding {r : Nat × State} (h : r.2.resp = s.resp) (w : Word) :
    OverflowEncoding i s (settleStart w r) := by
  rcases settleStart_cases w r with ⟨-, he⟩ | ⟨-, -, he⟩ | ⟨-, -, he⟩
  · rw [he]
    exact overflowEncoding_of_ok (congrArg (· ++ _) h)
  · rw [he]
    exact overflowEncoding_of_fault (congrArg (· ++ _) h) (by decide)
  · rw [he]
    exact overflowEncoding_of_silent h

end

/-- A command answers PENDING_OVERFLOW only when its encoding raises it; its checks and every other command raise other
faults. -/
theorem exec_overflowEncoding (i : Instr) (s : State) : Ensures (OverflowEncoding i s) (exec i s) := by
  have hok : ∀ ws, OverflowEncoding i s (respondOk ws s) := fun _ => overflowEncoding_of_ok rfl
  have hfault : ∀ w {c}, c ≠ .pendingOverflow → OverflowEncoding i s (takeFault w c s) := fun _ _ =>
    overflowEncoding_of_fault rfl
  have hcoded : ∀ {p bit u}, encodeBit p bit s = .done u → u.resp = s.resp := fun hu => by
    rw [encodeBit_frame (.inl hu)]
  cases i with
  | nop => exact ensures_next (hok _)
  | regRead csr =>
    show Ensures _ (execRegRead csr s)
    unfold execRegRead
    split
    · exact ensures_next (hfault _ (by decide))
    · exact ensures_next (hok _)
  | rcStartDec =>
    obtain ⟨hframe, -⟩ := fillWindow_spec 3 (openDecoder s)
    have hresp : (fillWindow 3 (openDecoder s)).2.resp = s.resp := hframe.resp
    exact unlessFaulted_overflowEncoding <| ensures_next <| settleStart_overflowEncoding hresp _
  | rcDecP p =>
    exact unlessFaulted_overflowEncoding <| check_overflowEncoding <| check_overflowEncoding <|
      ensures_next (decodeWith_overflowEncoding _ _ _)
  | decCtx t ctx =>
    exact unlessFaulted_overflowEncoding <| check_overflowEncoding <| check_overflowEncoding <|
      checkNext_overflowEncoding fun _ => ensures_next (decodeWith_overflowEncoding _ _ _)
  | rcEncP bit p =>
    exact unlessFaulted_overflowEncoding <| check_overflowEncoding <| check_overflowEncoding <|
      finishEnc_overflowEncoding rfl fun _ => hcoded
  | encCtx t bit ctx =>
    exact unlessFaulted_overflowEncoding <| check_overflowEncoding <| check_overflowEncoding <|
      checkNext_overflowEncoding fun _ => finishEnc_overflowEncoding rfl fun _ => hcoded
  | rcFlush =>
    have he : encodingOf .rcFlush s =
        some (flushShifts 4 (setInterval (s.rcLow.toNat + flushRange) s.rcRange.toNat s)) := by
      rw [encodingOf, flushStart]
    refine unlessFaulted_overflowEncoding <| check_overflowEncoding <| finishEnc_overflowEncoding he fun u hu => ?_
    rw [setMode_resp, flushShifts_frame (.inl hu), setInterval_resp]
  | bcPut t bit ctx =>
    exact unlessFaulted_overflowEncoding <| check_overflowEncoding <| checkNext_overflowEncoding fun _ =>
      ensures_next (overflowEncoding_of_ok rfl)
  | tblRead t b st =>
    refine unlessFaulted_overflowEncoding <| check_overflowEncoding ?_
    split
    · exact ensures_next (hfault _ (by decide))
    · exact ensures_next (hok _)
  | tblBuild t cut alpha =>
    refine unlessFaulted_overflowEncoding <| check_overflowEncoding <| check_overflowEncoding ?_
    dsimp only
    split
    · exact ensures_next (overflowEncoding_of_ok rfl)
    · exact ensures_next (overflowEncoding_of_ok rfl)
  | _ =>
    exact unlessFaulted_overflowEncoding (by simp [hok, hfault, overflowEncoding_of_ok, answered])

/-! ### What it leaves -/

/-- With a chance of 0 one bit takes the whole interval and the other nothing, and neither scaling raises
PENDING_OVERFLOW. -/
theorem encodeBit_zero_ne_overflow {s : State} (hr : rangeOk s) (bit : Bool) (u : State) :
    encodeBit 0 bit s ≠ .overflow u := by
  intro h
  have hzero : chance 0 s.rcRange.toNat = 0 := by simp [chance_eq]
  have hpos := encRenorm_overflow_pos h
  obtain ⟨hnarrow, -⟩ := encRenorm_overflow_cases h
  rw [encSplit_eq, setInterval_rcRange, BitVec.toNat_ofNat, bitRange, hzero] at hpos hnarrow
  unfold minRange at hnarrow
  split_ifs at hpos hnarrow <;> omega

/-- An encoding in a session that raises PENDING_OVERFLOW leaves the state stalled (60_exceptions R274). -/
theorem encodingOf_overflow {i : Instr} {s u : State} (hi : wellFormed i = true) (hs : encOk s) (hw : pendWOk s)
    (h : encodingOf i s = some (.overflow u)) :
    ((∃ bit p, i = .rcEncP bit p) ∨ (∃ k bit ctx, i = .encCtx k bit ctx) ∨ i = .rcFlush) ∧
      ∃ low range, u = stalled low range s := by
  have hbit : ∀ {p bit}, p ≤ 4095 → encodeBit p bit s = .overflow u → ∃ low range, u = stalled low range s := by
    intro p bit hp he
    have hp0 : p ≠ 0 := by
      rintro rfl
      exact encodeBit_zero_ne_overflow hs.1 bit u he
    obtain ⟨j, -, -, hu⟩ := (encodeBit_overflow_iff bit hs (by omega) hp hw u).1 he
    exact ⟨_, _, hu⟩
  cases i with
  | rcEncP bit p =>
    have hp : p < 4096 := of_decide_eq_true hi
    exact ⟨.inl ⟨bit, p, rfl⟩, hbit (by omega) (Option.some.inj h)⟩
  | encCtx k bit ctx => exact ⟨.inr (.inl ⟨k, bit, ctx, rfl⟩), hbit (by omega) (Option.some.inj h)⟩
  | rcFlush =>
    refine ⟨.inr (.inr rfl), ?_⟩
    have h : flushShifts 4 (flushStart s) = .overflow u := Option.some.inj h
    obtain ⟨j, -, -, hu⟩ | ⟨-, t, ht, -⟩ := flush_cases hs hw
    · exact ⟨_, _, EncEnd.overflow.inj (h.symm.trans hu)⟩
    · exact nomatch h.symm.trans ht
  | _ => cases h

theorem overflowed_self (w : Word) (low range : Nat) (s : State) :
    overflowed w low range s =
      overflowed w (overflowed w low range s).rcLow.toNat (overflowed w low range s).rcRange.toNat s := by
  simp only [overflowed, BitVec.ofNat_toNat, BitVec.setWidth_eq]

/-- Settles O36: by `encodeBit_overflow_iff` and `flush_cases` for the commands that raise it, and by
`exec_overflowEncoding` for all. -/
theorem rcEncPFaultsOnAFullPendingCounter : Obligations.RcEncPFaultsOnAFullPendingCounter := by
  intro s hf hm hs hw hw'
  have hfault : ∀ w low range, raiseFault w .pendingOverflow (stalled low range s) = .next (overflowed w low range s) :=
    fun w low range => congrArg _ (takeFault_stalled hf w low range)
  have hbit : ∀ bit p j, 1 ≤ p → p ≤ 4095 → j ≤ 1 → overflowsAt s (bitLow s p bit) (bitRange s p bit) j →
      encodeBit p bit s = .overflow (stalled (lowAfter (bitLow s p bit) j) (bitRange s p bit * 256 ^ j) s) :=
    fun bit p j hp hp' hj ho => (encodeBit_overflow_iff bit hs hp hp' ⟨hw, hw'⟩ _).2 ⟨j, hj, ho, rfl⟩
  have hcode : ∀ bit p j, 1 ≤ p → p ≤ 4095 → j ≤ 1 → overflowsAt s (bitLow s p bit) (bitRange s p bit) j →
      exec (.rcEncP bit p) s = .next (overflowed (encodeWord (.rcEncP bit p)) (lowAfter (bitLow s p bit) j)
        (bitRange s p bit * 256 ^ j) s) := fun bit p j hp hp' hj ho => by
    rw [exec_rcEncP_of_ok hf hm (by omega), hbit bit p j hp hp' hj ho]
    exact hfault ..
  refine ⟨hcode, fun bit t ctx j v ht hctx hne hv hj ho => ?_, fun j hj ho => ?_, fun i t hi ht ha => ?_⟩
  · have hp : 1 ≤ (ctxRead s ctx).toNat ∧ (ctxRead s ctx).toNat ≤ 4095 := by bv_omega
    have hchance : ∀ b, isChance (v b) = true := fun b => (isChance_iff _).2 (hv b).2
    have hnext := (checkNext_ok_iff s t (ctxRead s ctx) _).2
      ⟨v false, v true, (hv false).1, (hv true).1, hchance false, hchance true, rfl⟩
    refine ⟨_, hcode bit _ j hp.1 hp.2 hj ho, rfl, ?_⟩
    rw [exec_encCtx_of_ok hf (indexOk_of_lt ht hctx) hm hnext, hbit bit _ j hp.1 hp.2 hj ho]
    exact hfault ..
  · obtain ⟨j', hj', ho', he⟩ | ⟨hno, -⟩ := flush_cases hs ⟨hw, hw'⟩
    · obtain rfl : j = j' := by
        obtain ⟨-, hp, -⟩ := ho
        obtain ⟨-, hp', -⟩ := ho'
        omega
      rw [exec_rcFlush_of_ok hf hm, he]
      exact hfault ..
    · exact absurd ho (hno j hj)
  · obtain ⟨u, hu, rfl⟩ := exec_overflowEncoding i s t ht ha
    obtain ⟨hwho, low, range, rfl⟩ := encodingOf_overflow hi hs ⟨hw, hw'⟩ hu
    rw [takeFault_stalled hf]
    exact ⟨hwho, overflowed_self ..⟩

end Sys2Proof.Machine

/-! SUPPORT. The stream and the interval: a session's interval always holds the number that the whole stream spells, and
a decoder that follows the session finds each of its bits (40_range_coder R124 to R127, R134). -/

namespace Sys2Proof.Machine

/-! ### The interval holds the stream -/

/-- The bytes a decoder has read when the encoder has decided those of `e`: its window is three bytes ahead
(40_range_coder R129). -/
def windowBytes (e : State) (bytes : List Byte) : List Byte := bytes.take ((decided e).length + 3)

/-- The stream `bytes`, as far as a decoder has read it, spells a number in the interval of the session `e`. -/
structure Brackets (bytes : List Byte) (e : State) : Prop where
  length : (decided e).length + 3 ≤ bytes.length
  bottom : codeValue e ≤ foldBytes 0 (windowBytes e bytes)
  top : foldBytes 0 (windowBytes e bytes) < codeValue e + e.rcRange.toNat

/-- The decoder `d` has read the stream as far as the session `e` has come, and holds the offset of what it read in the
same interval (40_range_coder R123, R134). -/
structure Follows (bytes : List Byte) (e d : State) : Prop where
  brackets : Brackets bytes e
  range : d.rcRange = e.rcRange
  offset : codeValue e + d.rcLow.toNat = foldBytes 0 (windowBytes e bytes)
  src : d.src = bytes.drop ((decided e).length + 3)
  bytesIn : d.bytesIn = BitVec.ofNat 32 ((decided e).length + 3)

theorem Follows.low_lt {bytes : List Byte} {e d : State} (h : Follows bytes e d) : d.rcLow.toNat < e.rcRange.toNat := by
  have htop := h.brackets.top
  have hoff := h.offset
  omega

/-- What a decoder reads next, once the session has decided one byte more. -/
theorem windowBytes_succ {bytes : List Byte} {e t : State} (hlen : (decided t).length = (decided e).length + 1)
    (hb : (decided t).length + 3 ≤ bytes.length) :
    ∃ b, bytes.drop ((decided e).length + 3) = b :: bytes.drop ((decided t).length + 3) ∧
      foldBytes 0 (windowBytes t bytes) = foldBytes 0 (windowBytes e bytes) * 256 + b.toNat := by
  have hlt : (decided e).length + 3 < bytes.length := by omega
  have hnext : (decided t).length + 3 = (decided e).length + 3 + 1 := by omega
  refine ⟨bytes[(decided e).length + 3], ?_, ?_⟩
  · rw [hnext]
    exact List.drop_eq_getElem_cons hlt
  · rw [windowBytes, hnext, List.take_succ_eq_append_getElem hlt, foldBytes_append]
    rfl

section
variable {bytes : List Byte} {e t : State} (he : carryOk e) (hp : pendingOk e) (hw : ¬ minRange < e.rcRange.toNat)
  (h : encShift e = some t)
include he hp hw h

/-- The interval before an iteration holds the stream if the interval after it does (40_range_coder R125). -/
theorem brackets_of_encShift (ht : Brackets bytes t) : Brackets bytes e := by
  obtain ⟨hlen, hbottom, htop⟩ := ht
  have hmore := encShift_decided_length he hp hw h
  obtain ⟨b, -, hvalue⟩ := windowBytes_succ hmore hlen
  have hb : b.toNat < 256 := b.isLt
  have hcode := encShift_codeValue he hp hw h
  have hrange := encShift_range h hw
  exact ⟨by omega, by omega, by omega⟩

/-- A decoder follows an iteration by reading a byte (40_range_coder R125, R127). -/
theorem follows_encShift (ht : Brackets bytes t) {d : State} (hd : Follows bytes e d) :
    ∃ b rest, d.src = b :: rest ∧ Follows bytes t (refillShift b (takeByte rest d)) := by
  have hmore := encShift_decided_length he hp hw h
  obtain ⟨b, hsrc, hvalue⟩ := windowBytes_succ hmore ht.length
  have hcode := encShift_codeValue he hp hw h
  have hlow := hd.low_lt
  have hoff := hd.offset
  have hb : b.toNat < 256 := b.isLt
  unfold minRange at hw
  refine ⟨b, _, hd.src.trans hsrc, ht, ?_, ?_, rfl, ?_⟩
  · rw [(encShift_interval h).2, ← hd.range]
    rfl
  · rw [hvalue, hcode, refillShift, setInterval_rcLow, takeByte_rcLow, BitVec.toNat_ofNat, Nat.mod_eq_of_lt (by omega)]
    omega
  · show d.bytesIn + 1 = _
    have hnext : (decided t).length + 3 = (decided e).length + 3 + 1 := by omega
    rw [hd.bytesIn, hnext, BitVec.ofNat_add ((decided e).length + 3) 1]
    rfl

end

/-- The same through all iterations of EncRenorm, which DecRefill follows (40_range_coder R125, R127). -/
theorem follows_encRenorm {bytes : List Byte} {n : Nat} {e t : State} (h : encRenorm n e = .done t) :
    carryOk e → pendingOk e → Brackets bytes t →
      Brackets bytes e ∧ ∀ d, Follows bytes e d → Follows bytes t (decRefill d.src d) := by
  refine encRenorm_done_induction (P := fun e t => carryOk e → pendingOk e → Brackets bytes t →
    Brackets bytes e ∧ ∀ d, Follows bytes e d → Follows bytes t (decRefill d.src d))
    (fun e hw _ _ ht => ⟨ht, fun d hd => ?_⟩) (fun e u t hw hu ih he hp ht => ?_) h
  · rwa [decRefill_wide (by rwa [hd.range])]
  · obtain ⟨hbrackets, hfollows⟩ := ih (encShift_carryOk hu) (encShift_pendingOk hp hu) ht
    refine ⟨brackets_of_encShift he hp hw hu hbrackets, fun d hd => ?_⟩
    obtain ⟨b, rest, hsrc, hnext⟩ := follows_encShift he hp hw hu hbrackets hd
    rw [hsrc, decRefill_narrow (by rwa [hd.range])]
    exact hfollows _ hnext

section
variable {bytes : List Byte} {e : State} {p : Nat} (bit : Bool) (he : encOk e) (hp : 1 ≤ p) (hp' : p ≤ 4095)
include he hp hp'

theorem encSplit_range : (encSplit p bit e).rcRange.toNat = bitRange e p bit := by
  obtain ⟨-, -, hr'⟩ := bitInterval_bounds bit he hp hp'
  rw [encSplit_eq, setInterval_rcRange, BitVec.toNat_ofNat, Nat.mod_eq_of_lt (by omega)]

/-- Coding a bit moves the bottom of the interval as it moves RC_LOW (40_range_coder R124). -/
theorem encSplit_codeValue : codeValue (encSplit p bit e) + e.rcLow.toNat = codeValue e + bitLow e p bit := by
  obtain ⟨hlow, -, -⟩ := bitInterval_bounds bit he hp hp'
  rw [encSplit_eq, codeValue, codeValue, setInterval_rcLow, BitVec.toNat_ofNat, Nat.mod_eq_of_lt hlow,
    decided_setInterval]
  omega

end

theorem encSplit_decided (p : Nat) (bit : Bool) (e : State) : decided (encSplit p bit e) = decided e := by
  rw [encSplit_eq, decided_setInterval]

theorem encSplit_windowBytes (p : Nat) (bit : Bool) (e : State) (bytes : List Byte) :
    windowBytes (encSplit p bit e) bytes = windowBytes e bytes := by
  rw [windowBytes, windowBytes, encSplit_decided]

section
variable {bytes : List Byte} {e : State} {p : Nat} {bit : Bool} (he : encOk e) (hp : 1 ≤ p) (hp' : p ≤ 4095)
  (h : Brackets bytes (encSplit p bit e))
include he hp hp' h

/-- The interval of a coded bit lies in the interval before it (40_range_coder R124). -/
theorem brackets_of_encSplit : Brackets bytes e := by
  obtain ⟨hlen, hbottom, htop⟩ := h
  have hc := chance_bounds hp hp' he.1.1
  have hin : e.rcLow.toNat ≤ bitLow e p bit ∧
      bitLow e p bit + bitRange e p bit ≤ e.rcLow.toNat + e.rcRange.toNat := by
    unfold bitLow bitRange
    split <;> omega
  have hcode := encSplit_codeValue bit he hp hp'
  rw [encSplit_decided] at hlen
  rw [encSplit_windowBytes] at hbottom htop
  rw [encSplit_range bit he hp hp'] at htop
  exact ⟨hlen, by omega, by omega⟩

/-- The stream lies in the top `Chance` of the interval exactly when the coded bit is P_BIT
(40_range_coder R124, R126). -/
theorem offset_top_iff {d : State} (hd : Follows bytes e d) :
    d.rcRange.toNat - chance p d.rcRange.toNat ≤ d.rcLow.toNat ↔ bit = e.cfg.pBit := by
  obtain ⟨-, hbottom, htop⟩ := h
  have hc := chance_bounds hp hp' he.1.1
  have hcode := encSplit_codeValue bit he hp hp'
  have hoff := hd.offset
  rw [encSplit_windowBytes] at hbottom htop
  rw [encSplit_range bit he hp hp'] at htop
  rw [hd.range]
  unfold bitLow at hcode
  unfold bitRange at htop
  by_cases hbit : bit = e.cfg.pBit
  · rw [if_pos hbit] at hcode htop
    exact iff_of_true (by omega) hbit
  · rw [if_neg hbit] at hcode htop
    exact iff_of_false (by omega) hbit

/-- A decoder that follows a session finds the coded bit, and follows the session into the interval of that bit
(40_range_coder R124, R126). -/
theorem follows_encSplit {d : State} (hd : Follows bytes e d) (hcfg : d.cfg = e.cfg) :
    decBit p d = bit ∧ Follows bytes (encSplit p bit e) (decSplit p d) := by
  have htop := offset_top_iff he hp hp' h hd
  have hc := chance_bounds hp hp' he.1.1
  rw [hd.range] at htop
  have hlow := hd.low_lt
  have hrange : decRange p d = bitRange e p bit := by
    unfold decRange bitRange
    rw [hd.range]
    simp only [htop]
  have hoffset : decLow p d + bitLow e p bit = d.rcLow.toNat + e.rcLow.toNat := by
    unfold decLow bitLow
    rw [hd.range]
    by_cases hbit : bit = e.cfg.pBit
    · rw [if_pos hbit, if_pos (htop.2 hbit)]
      have := htop.2 hbit
      omega
    · rw [if_neg hbit, if_neg (mt htop.1 hbit)]
  have hcode := encSplit_codeValue bit he hp hp'
  have hold := hd.offset
  have hsmall := e.rcRange.isLt
  refine ⟨?_, h, ?_, ?_, ?_, ?_⟩
  · unfold decBit
    rw [hcfg, hd.range]
    by_cases hbit : bit = e.cfg.pBit
    · rw [if_pos (htop.2 hbit), hbit]
    · rw [if_neg (mt htop.1 hbit)]
      exact (Bool.eq_not_of_ne hbit).symm
  · rw [decSplit_eq, encSplit_eq, setInterval_rcRange, setInterval_rcRange, hrange]
  · rw [encSplit_windowBytes, decSplit_eq, setInterval_rcLow, BitVec.toNat_ofNat, Nat.mod_eq_of_lt]
    · omega
    · unfold decLow
      split <;> omega
  · rw [decSplit_src, encSplit_decided, hd.src]
  · rw [decSplit_eq, setInterval_bytesIn, encSplit_decided, hd.bytesIn]

end

/-! ### One coded bit -/

/-- A decoder that follows a session decodes the bit it codes, finds what it needs to read in the source, and follows on
(40_range_coder R124 to R127). -/
theorem decode_follows {bytes : List Byte} {e t : State} {p : Nat} {bit : Bool} (he : encOk e)
    (hpending : pendingOk e) (hp : 1 ≤ p) (hp' : p ≤ 4095) (h : encodeBit p bit e = .done t) (ht : Brackets bytes t) :
    Brackets bytes e ∧ ∀ d, Follows bytes e d → d.cfg = e.cfg → ∃ d', frameSource d d' ∧ Follows bytes t d' ∧
      ∀ w next, decodeWith w p next d = respondOk [bitWord bit] (applyUpdate (next bit) (setHold none d')) := by
  have hsplit : pendingOk (encSplit p bit e) := by rw [encSplit_eq]; exact hpending
  obtain ⟨hin, hfollows⟩ := follows_encRenorm h (encSplit_renormOk bit he hp hp').carryOk hsplit ht
  refine ⟨brackets_of_encSplit he hp hp' hin, fun d hd hcfg => ?_⟩
  obtain ⟨hbit, hd'⟩ := follows_encSplit he hp hp' hin hd hcfg
  have hend := hfollows _ hd'
  have hwide : minRange < (decRefill (decSplit p d).src (decSplit p d)).rcRange.toNat := by
    rw [hend.range]
    exact encRenorm_done_wide h
  refine ⟨_, (decSplit_frame p d).trans (decRefill_frame ..), hend, fun w next => ?_⟩
  rw [decodeWith, hbit, ← decSplit_src p d, settleDecode, if_pos hwide]

end Sys2Proof.Machine

/-! SUPPORT. The round trip: a session, command by command, and the decoder that follows it (40_range_coder R134,
70_reset_and_hazards R310). -/

namespace Sys2Proof.Machine

/-! ### Running commands one after another -/

theorem execAll_cons {i : Instr} {is : List Instr} {s t : State} (h : exec i s = .next t) :
    execAll (i :: is) s = execAll is t := by
  simp only [execAll, h]

/-- A run that ends ran its first command, and then the others. -/
theorem execAll_cons_next {i : Instr} {is : List Instr} {s u : State} (h : execAll (i :: is) s = .next u) :
    ∃ t, exec i s = .next t ∧ execAll is t = .next u := by
  cases he : exec i s with
  | next t => exact ⟨t, rfl, execAll_cons he ▸ h⟩
  | fault f => simp only [execAll, he] at h; cases h
  | refused r => simp only [execAll, he] at h; cases h

/-- The commands of an encoder session are among those that a faulted block refuses (60_exceptions R273). -/
theorem encoder_of_faulted (c : CodedBit) {s : State} (hf : s.faulted = true) :
    exec c.encoder s = .next { s with resp := s.resp ++ [.fault .faultedState] } := by
  cases c with
  | explicit p bit => exact unlessFaulted_of_faulted hf
  | adaptive t ctx bit => exact unlessFaulted_of_faulted hf

/-- A session that faults stays faulted to its end (60_exceptions R273, R275). -/
theorem faulted_of_execAll (cs : List CodedBit) {s u : State} (hf : s.faulted = true)
    (h : execAll (cs.map CodedBit.encoder ++ [Instr.rcFlush]) s = .next u) : u.faulted = true := by
  induction cs generalizing s with
  | nil =>
    obtain ⟨t, ht, hu⟩ := execAll_cons_next h
    cases hu
    cases (unlessFaulted_of_faulted hf).symm.trans ht
    exact hf
  | cons c cs ih =>
    obtain ⟨t, ht, hu⟩ := execAll_cons_next h
    cases (encoder_of_faulted c hf).symm.trans ht
    exact ih (s := { s with resp := s.resp ++ [.fault .faultedState] }) hf hu

/-- So a session that ends without a fault had none at any point. -/
theorem not_faulted_of_execAll {cs : List CodedBit} {s u : State}
    (h : execAll (cs.map CodedBit.encoder ++ [Instr.rcFlush]) s = .next u) (hu : u.faulted = false) :
    s.faulted = false := by
  cases hf : s.faulted with
  | false => rfl
  | true => exact absurd (faulted_of_execAll cs hf h) (by simp [hu])

/-! ### A coded bit and its twin -/

/-- The chance a coded bit is coded with (40_range_coder R130, 41_bit_chance R168). -/
def CodedBit.chance (c : CodedBit) (s : State) : Nat :=
  match c with
  | .explicit p _ => p
  | .adaptive _ ctx _ => (ctxRead s ctx).toNat

/-- The checks of a coded bit on its operands have passed in `s`, and coding or decoding a bit then makes the context
update that `next` gives for it (41_bit_chance R168, R169). -/
def CodedBit.Updates (c : CodedBit) (s : State) (next : Bool → Option (Nat × BitVec 12)) : Prop :=
  match c with
  | .explicit p _ => p ≠ 0 ∧ next = fun _ => none
  | .adaptive t ctx _ => ¬ (!indexOk s t ctx) = true ∧
      ∃ n, checkNext s t (ctxRead s ctx) = .ok n ∧ next = fun bit => some (ctx, nextOf n bit)

section
variable {c : CodedBit} {e d : State} (hcfg : d.cfg = e.cfg) (hctx : d.ctx = e.ctx) (htbl : d.tbl = e.tbl)
include hctx

theorem CodedBit.chance_congr : c.chance d = c.chance e := by
  cases c with
  | explicit p bit => rfl
  | adaptive t ctx bit => simp only [CodedBit.chance, ctxRead_congr hctx]

include hcfg htbl

/-- On equal parameters, contexts and tables the twin makes the same checks and the same update. -/
theorem CodedBit.updates_congr {next : Bool → Option (Nat × BitVec 12)} (h : c.Updates e next) : c.Updates d next := by
  cases c with
  | explicit p bit => exact h
  | adaptive t ctx bit =>
    simp only [CodedBit.Updates, indexOk, checkNext, tblEntry, ctxRead_congr hctx, hcfg, htbl] at h ⊢
    exact h

end

theorem not_faulted_takeFault {w : Word} {c : Cause} {s : State} {Q : Prop}
    (h : (takeFault w c s).faulted = false) : Q :=
  Bool.noConfusion h

/-- The encoding command of a coded bit that does not fault has coded it and made its update. -/
theorem encoder_done (c : CodedBit) (e : State) :
    Ensures (fun t => t.faulted = false → ∃ next u, c.Updates e next ∧ encodeBit (c.chance e) c.bit e = .done u ∧
      t = respondOk [] (applyUpdate (next c.bit) u)) (exec c.encoder e) := by
  cases c with
  | explicit p bit =>
    exact ensures_unlessFaulted (fun _ => not_faulted_takeFault) fun _ =>
      ensures_check (fun _ => not_faulted_takeFault) fun _ => ensures_check (fun _ => not_faulted_takeFault) fun hp =>
      ensures_finishEnc (fun u hu _ => ⟨_, u, ⟨hp, rfl⟩, hu, rfl⟩) (fun _ _ => not_faulted_takeFault)
  | adaptive t ctx bit =>
    exact ensures_unlessFaulted (fun _ => not_faulted_takeFault) fun _ =>
      ensures_check (fun _ => not_faulted_takeFault) fun hi => ensures_check (fun _ => not_faulted_takeFault) fun _ =>
      ensures_checkNext (fun _ _ => not_faulted_takeFault) fun n hn =>
      ensures_finishEnc (fun u hu _ => ⟨_, u, ⟨hi, n, hn, rfl⟩, hu, rfl⟩) (fun _ _ => not_faulted_takeFault)

/-- RC_FLUSH that does not fault has made its four shifts (40_range_coder R132). -/
theorem rcFlush_done (e : State) :
    Ensures (fun t => t.faulted = false → ∃ u, flushShifts 4 (flushStart e) = .done u ∧
      t = respondOk [] (setMode .idle u)) (exec .rcFlush e) :=
  ensures_unlessFaulted (fun _ => not_faulted_takeFault) fun _ =>
    ensures_check (fun _ => not_faulted_takeFault) fun _ =>
    ensures_finishEnc (fun u hu _ => ⟨u, by rwa [flushStart], rfl⟩) (fun _ _ => not_faulted_takeFault)

/-- The twin of a coded bit decodes with the same chance and update. -/
theorem exec_decoder {c : CodedBit} {d : State} {next : Bool → Option (Nat × BitVec 12)} (hf : d.faulted = false)
    (hm : d.mode = .dec) (hu : c.Updates d next) :
    exec c.decoder d = .next (decodeWith (encodeWord c.decoder) (c.chance d) next d) := by
  cases c with
  | explicit p bit =>
    obtain ⟨hp, rfl⟩ := hu
    exact exec_rcDecP_of_ok hf hm hp
  | adaptive t ctx bit =>
    obtain ⟨hi, n, hn, rfl⟩ := hu
    exact exec_decCtx_of_ok hf hi hm hn

/-! ### A session -/

/-- An encoder session between its commands, with contexts that are chances (10_state R50, R52). -/
structure EncSession (e : State) : Prop where
  coder : encOk e
  width : 1 ≤ e.cfg.pendW
  pending : pendingOk e
  ctx : ∀ x ∈ e.ctx, x.2 ≠ 0

/-- In a session every coded bit has a chance that is not 0 (40_range_coder R130, 41_bit_chance R167). -/
theorem CodedBit.chance_bounds {c : CodedBit} {e : State} {next : Bool → Option (Nat × BitVec 12)}
    (he : ∀ x ∈ e.ctx, x.2 ≠ 0) (hc : wellFormed c.encoder = true) (hu : c.Updates e next) :
    1 ≤ c.chance e ∧ c.chance e ≤ 4095 := by
  cases c with
  | explicit p bit =>
    have hp : p < 4096 := of_decide_eq_true hc
    exact ⟨Nat.pos_of_ne_zero hu.1, Nat.le_of_lt_succ hp⟩
  | adaptive t ctx bit =>
    have hne := ctxRead_ne_zero he ctx
    show 1 ≤ (ctxRead e ctx).toNat ∧ (ctxRead e ctx).toNat ≤ 4095
    bv_omega

/-- A context update of a coded bit writes a chance (41_bit_chance R167). -/
theorem CodedBit.update_ne_zero {c : CodedBit} {e : State} {next : Bool → Option (Nat × BitVec 12)}
    (hu : c.Updates e next) (bit : Bool) : ∀ i v, next bit = some (i, v) → v ≠ 0 := by
  cases c with
  | explicit p bit =>
    obtain ⟨-, rfl⟩ := hu
    nofun
  | adaptive t ctx bit =>
    obtain ⟨-, n, hn, rfl⟩ := hu
    rintro i v h
    cases h
    exact nextOf_ne_zero hn _

theorem applyUpdate_encSession {e : State} (h : EncSession e) {o : Option (Nat × BitVec 12)}
    (ho : ∀ i v, o = some (i, v) → v ≠ 0) (ws : List Word) : EncSession (respondOk ws (applyUpdate o e)) := by
  cases o with
  | none => exact ⟨h.coder, h.width, h.pending, h.ctx⟩
  | some x =>
    exact ⟨h.coder, h.width, h.pending, cellSet_forall (P := (· ≠ 0)) h.ctx (ho x.1 x.2 rfl) x.1⟩

theorem encodeBit_encSession {e u : State} {p : Nat} {bit : Bool} (he : EncSession e) (hp : 1 ≤ p) (hp' : p ≤ 4095)
    (h : encodeBit p bit e = .done u) : EncSession u := by
  have hframe := encodeBit_frame (.inl h)
  refine ⟨encodeBit_encOk he.coder hp hp' h, ?_, encodeBit_pendingOk he.pending (.inl h), ?_⟩
  · rw [hframe]
    exact he.width
  · rw [hframe]
    exact he.ctx

/-- What a flushed session has written spells a number in its interval: its bottom and 0xFFFF, below its top since no
interval is narrower (40_range_coder R132, R134). -/
theorem brackets_of_flush {e t : State} (he : EncSession e) (h : flushShifts 4 (flushStart e) = .done t) :
    t.snk.length = (decided e).length + 3 ∧ Brackets t.snk e := by
  have hbottom := flushStart_low he.coder
  obtain ⟨hlen, hcode⟩ := flushShifts_decides (flushStart_carryOk he.coder) (flushStart_pendingOk he.pending) h
  obtain ⟨j, -, -, ho⟩ | ⟨-, t', ht, ⟨hlow, -, hpending, hdelayed⟩⟩ := flush_cases he.coder ⟨he.width, he.pending.1⟩
  · exact nomatch h.symm.trans ho
  obtain rfl : t = t' := EncEnd.done.inj (h.symm.trans ht)
  have hall : decided t = t.snk ++ [0x00] := by rw [decided, hdelayed, hpending]; rfl
  have hstart : decided (flushStart e) = decided e := by rw [flushStart, decided_setInterval]
  rw [hall, hstart, List.length_append, List.length_singleton] at hlen
  have hsnk : t.snk.length = (decided e).length + 3 := by omega
  have hvalue : foldBytes 0 (windowBytes e t.snk) = codeValue e + 0xFFFF := by
    rw [windowBytes, ← hsnk, List.take_length]
    rw [codeValue, codeValue, hall, hstart, hbottom, hlow, foldBytes_append] at hcode
    have hlast : foldBytes (foldBytes 0 t.snk) [0x00] = foldBytes 0 t.snk * 256 := by simp
    have hzero : (0 : Word).toNat = 0 := rfl
    rw [hlast, hzero] at hcode
    unfold codeValue
    omega
  obtain ⟨⟨hr, -⟩, -⟩ := he.coder
  exact ⟨hsnk, hsnk.ge, by omega, by omega⟩

/-! ### The round trip -/

section
variable {bytes : List Byte} {e e' d d' : State}

/-- Only contexts, responses and the hold differ: what an update, an answer and the end of a hold may write. -/
abbrev frameUpdate (s t : State) : Prop := t = { s with ctx := t.ctx, resp := t.resp, hold := t.hold }

theorem respondOk_applyUpdate_frame (o : Option (Nat × BitVec 12)) (ws : List Word) (s : State) :
    frameUpdate s (respondOk ws (applyUpdate o s)) := by
  cases o with
  | none => rfl
  | some x => rfl

theorem brackets_iff_of_frameUpdate (h : frameUpdate e e') : Brackets bytes e' ↔ Brackets bytes e := by
  rw [h]
  exact ⟨fun h => ⟨h.length, h.bottom, h.top⟩, fun h => ⟨h.length, h.bottom, h.top⟩⟩

theorem follows_of_frameUpdate (he : frameUpdate e e') (hd : frameUpdate d d') (h : Follows bytes e d) :
    Follows bytes e' d' := by
  have hin := (brackets_iff_of_frameUpdate he).2 h.brackets
  rw [he] at hin ⊢
  rw [hd]
  exact ⟨hin, h.range, h.offset, h.src, h.bytesIn⟩

/-- The decoder `d` follows the session `e`, on equal parameters, contexts and tables (70_reset_and_hazards R310). -/
structure Twin (bytes : List Byte) (e d : State) : Prop where
  follows : Follows bytes e d
  faulted : d.faulted = false
  mode : d.mode = .dec
  cfg : d.cfg = e.cfg
  ctx : d.ctx = e.ctx
  tbl : d.tbl = e.tbl

/-- The same update on both sides, and an answer on each, keep them twins. -/
theorem twin_applyUpdate (h : Twin bytes e d) (o : Option (Nat × BitVec 12)) (ws ws' : List Word) :
    Twin bytes (respondOk ws (applyUpdate o e)) (respondOk ws' (applyUpdate o (setHold none d))) := by
  have he := respondOk_applyUpdate_frame o ws e
  have hd : frameUpdate d (respondOk ws' (applyUpdate o (setHold none d))) := by
    rw [frameUpdate, respondOk_applyUpdate_frame o ws' (setHold none d)]
    rfl
  have hctx : (respondOk ws' (applyUpdate o (setHold none d))).ctx = (respondOk ws (applyUpdate o e)).ctx := by
    cases o with
    | none => exact h.ctx
    | some x => exact congrArg (fun m => cellSet 0x800 m x.1 x.2) h.ctx
  refine ⟨follows_of_frameUpdate he hd h.follows, ?_, ?_, ?_, hctx, ?_⟩
  · rw [hd]; exact h.faulted
  · rw [hd]; exact h.mode
  · rw [hd, he]; exact h.cfg
  · rw [hd, he]; exact h.tbl

end

/-- What is left of the run of a decoder: it returns the bits `bits`, reads the source to its end, and ends with the
contexts `ctx`. -/
def Returns (bits : List Bool) (bytes : List Byte) (ctx : List (Nat × BitVec 12)) (d : State) (r : Result) : Prop :=
  ∃ v, r = .next v ∧ v.faulted = false ∧ v.resp = d.resp ++ bits.map (fun b => Response.ok [bitWord b]) ∧ v.src = [] ∧
    v.bytesIn = BitVec.ofNat 32 bytes.length ∧ v.ctx = ctx

/-- A coded bit and its twin: if the interval after it holds the stream, so does the interval before it, and a decoder
that follows the session returns the bit and follows on. -/
theorem codedBit_twin {c : CodedBit} {bytes : List Byte} {e t : State} (he : EncSession e)
    (hc : wellFormed c.encoder = true) (h : exec c.encoder e = .next t) (ht : t.faulted = false) :
    EncSession t ∧ (Brackets bytes t → Brackets bytes e ∧ ∀ d, Twin bytes e d →
      ∃ d', exec c.decoder d = .next d' ∧ Twin bytes t d' ∧ d'.resp = d.resp ++ [Response.ok [bitWord c.bit]]) := by
  obtain ⟨next, u, hu, hcoded, rfl⟩ := encoder_done c e _ h ht
  obtain ⟨hp, hp'⟩ := CodedBit.chance_bounds he.ctx hc hu
  have hsession := encodeBit_encSession he hp hp' hcoded
  refine ⟨applyUpdate_encSession hsession (CodedBit.update_ne_zero hu _) _, fun hin => ?_⟩
  have hin := (brackets_iff_of_frameUpdate (respondOk_applyUpdate_frame ..)).1 hin
  obtain ⟨hin, hfollow⟩ := decode_follows he.coder he.pending hp hp' hcoded hin
  refine ⟨hin, fun d hd => ?_⟩
  obtain ⟨d', hframe, hfollows, hdecode⟩ := hfollow d hd.follows hd.cfg
  have hcoder := encodeBit_frame (.inl hcoded)
  have htwin : Twin bytes u d' := by
    refine ⟨hfollows, ?_, ?_, ?_, ?_, ?_⟩
    · rw [hframe]; exact hd.faulted
    · rw [hframe]; exact hd.mode
    · rw [hframe, hcoder]; exact hd.cfg
    · rw [hframe, hcoder]; exact hd.ctx
    · rw [hframe, hcoder]; exact hd.tbl
  refine ⟨_, ?_, twin_applyUpdate htwin (next c.bit) [] [bitWord c.bit], ?_⟩
  · rw [exec_decoder hd.faulted hd.mode (CodedBit.updates_congr hd.cfg hd.ctx hd.tbl hu), CodedBit.chance_congr hd.ctx,
      hdecode]
  · have hresp : ∀ o, (applyUpdate o (setHold none d')).resp = d.resp := fun o => by
      rw [← hframe.resp]
      cases o with
      | none => rfl
      | some x => rfl
    rw [respondOk_resp, hresp]

/-- A session that is flushed without a fault has written a stream that its interval holds at each point, and from each
point a decoder that follows it returns the bits that are left, from their twins (40_range_coder R134). -/
theorem session_twin {cs : List CodedBit} {e u : State} (he : EncSession e) (hc : ∀ c ∈ cs, wellFormed c.encoder = true)
    (h : execAll (cs.map CodedBit.encoder ++ [Instr.rcFlush]) e = .next u) (hu : u.faulted = false) :
    Brackets u.snk e ∧ ∀ d, Twin u.snk e d →
      Returns (cs.map CodedBit.bit) u.snk u.ctx d (execAll (cs.map CodedBit.decoder) d) := by
  induction cs generalizing e with
  | nil =>
    obtain ⟨t, ht, hend⟩ := execAll_cons_next h
    cases hend
    obtain ⟨t, hflush, rfl⟩ := rcFlush_done e _ ht hu
    obtain ⟨hlen, hin⟩ := brackets_of_flush he hflush
    have hctx : t.ctx = e.ctx := by rw [flushShifts_frame (.inl hflush), flushStart, setInterval_ctx]
    refine ⟨hin, fun d hd => ⟨d, rfl, hd.faulted, (List.append_nil _).symm, ?_, ?_, hd.ctx.trans hctx.symm⟩⟩
    · rw [hd.follows.src, ← hlen]
      exact List.drop_length
    · rw [hd.follows.bytesIn, ← hlen]
      rfl
  | cons c cs ih =>
    obtain ⟨t, ht, hrest⟩ := execAll_cons_next h
    obtain ⟨hsession, htwin⟩ := codedBit_twin (bytes := u.snk) he (hc c (List.mem_cons_self ..)) ht
      (not_faulted_of_execAll hrest hu)
    obtain ⟨hin, hreturns⟩ := ih hsession (fun c' hc' => hc c' (List.mem_cons_of_mem _ hc')) hrest
    obtain ⟨hin, htwin⟩ := htwin hin
    refine ⟨hin, fun d hd => ?_⟩
    obtain ⟨d', hd', hnext, hresp⟩ := htwin d hd
    obtain ⟨v, hv, hf, hbits, hsrc, hcount, hctx⟩ := hreturns d' hnext
    refine ⟨v, (execAll_cons hd').trans hv, hf, ?_, hsrc, hcount, hctx⟩
    rw [hbits, hresp, List.append_assoc]
    rfl

/-! ### The start of both -/

/-- The session that RC_START_ENC opens, before it answers (40_range_coder R128). -/
def openEncoder (s : State) : State := setCarry none 0 (setInterval 0 baseRange { setMode .enc s with bytesOut := 0 })

theorem openEncoder_encSession {s : State} (hs : Inv s) : EncSession (respondOk [] (openEncoder s)) :=
  ⟨by simp [openEncoder, encOk, rangeOk, baseRange], hs.cfg.pendW_ge.trans' (by decide),
    ⟨hs.cfg.pendW_le, Nat.two_pow_pos _⟩, hs.ctx.2⟩

/-- RC_START_DEC with the stream of a session in its source follows that session from its start (40_range_coder R128,
R129). -/
theorem start_twin {bytes : List Byte} {s d : State} (hsnk : s.snk = [])
    (hin : Brackets bytes (respondOk [] (openEncoder s))) (hf : d.faulted = false) (hcfg : d.cfg = s.cfg)
    (hctx : d.ctx = s.ctx) (htbl : d.tbl = s.tbl) (hsrc : d.src = bytes) :
    ∃ d', exec .rcStartDec d = .next d' ∧ Twin bytes (respondOk [] (openEncoder s)) d' ∧
      d'.resp = d.resp ++ [.ok []] := by
  have hnothing : decided (respondOk [] (openEncoder s)) = [] := by
    show s.snk ++ [] = []
    rw [hsnk]
    rfl
  have hlen := hin.length
  rw [hnothing, List.length_nil] at hlen
  have hleft : 3 - d.src.length = 0 := by rw [hsrc]; omega
  have hread : (bytes.take 3).length = 3 := List.length_take_of_le (by omega)
  have hwindow := foldBytes_lt (low := 0) (range := 1) (by decide) (bytes.take 3)
  rw [hread] at hwindow
  rw [exec_rcStartDec_eq hf, hleft, settleStart, if_pos rfl, hsrc]
  refine ⟨_, rfl, ⟨⟨hin, rfl, ?_, ?_, ?_⟩, hf, rfl, hcfg, hctx, htbl⟩, rfl⟩
  · rw [codeValue, windowBytes, hnothing]
    show 0 + (BitVec.ofNat 32 (foldBytes 0 (bytes.take 3))).toNat = _
    rw [BitVec.toNat_ofNat, Nat.mod_eq_of_lt (by omega), Nat.zero_add]
    rfl
  · rw [hnothing]
    rfl
  · rw [hnothing]
    exact congrArg (BitVec.ofNat 32) hread

theorem bitWord_eq (b : Bool) : bitWord b = if b then 1 else 0 := by
  cases b <;> rfl

/-- Settles O41: the session's interval holds the stream from its start, so RC_START_DEC follows it and the twins
return its bits. -/
theorem decoderReturnsTheEncodedBits : Obligations.DecoderReturnsTheEncodedBits := by
  intro cs s u d hs hsnk hc h hu _ hf _ hcfg hctx htbl hsrc _
  obtain ⟨t, ht, hrest⟩ := execAll_cons_next h
  have htf := not_faulted_of_execAll hrest hu
  obtain rfl : t = respondOk [] (openEncoder s) := by
    rcases unlessFaulted_cases (encodeWord .rcStartEnc) s (answer [] (openEncoder s)) with ⟨-, he⟩ | ⟨hsf, he⟩
    · exact Host.Outcome.next.inj (ht.symm.trans he)
    · cases ht.symm.trans he
      exact absurd hsf (by simpa using htf)
  obtain ⟨hin, hreturns⟩ := session_twin (openEncoder_encSession hs) hc hrest hu
  obtain ⟨d', hd', htwin, hresp⟩ := start_twin hsnk hin hf hcfg hctx htbl hsrc
  obtain ⟨v, hv, hvf, hbits, hvsrc, hcount, hvctx⟩ := hreturns d' htwin
  refine ⟨v, (execAll_cons hd').trans hv, hvf, ?_, hvsrc, hcount, hvctx⟩
  rw [hbits, hresp, List.append_assoc, List.map_map]
  simp only [Function.comp_def, bitWord_eq]
  rfl

end Sys2Proof.Machine

/-! SUPPORT. The context commands: what a context reads after them, CheckNext by its outcomes, and the checks of the
commands with a context or a table (41_bit_chance R163 to R169, R172 to R174). -/

namespace Sys2Proof.Machine

/-! ### Answers and updates read back -/

/-- After a write and an answer, on a state with the contexts of `s`, the index written reads the value and every other
what `s` has. -/
theorem ctxRead_answered_write {s u : State} (hu : u.ctx = s.ctx) (ctx : Nat) (v : BitVec 12) (ws : List Word) :
    ctxRead (respondOk ws (ctxWrite ctx v u)) ctx = v ∧
      ∀ k, k ≠ ctx → ctxRead (respondOk ws (ctxWrite ctx v u)) k = ctxRead s k := by
  refine ⟨(ctxRead_write ..).trans (if_pos rfl), fun k hk => ?_⟩
  exact (ctxRead_write ..).trans ((if_neg hk).trans (ctxRead_congr hu k))

/-- A fault that a command raises outside the faulted state is recorded with the command's own word (60_exceptions
R272). -/
theorem faults_of_raise {i : Instr} {c : Cause} {s : State} (hf : s.faulted = false)
    (h : exec i s = raiseFault (encodeWord i) c s) : ∃ u, exec i s = .next u ∧ faultedBy (encodeWord i) c s u :=
  h ▸ raiseFault_faultedBy hf _ _

/-- Settles O42: outside the faulted state BC_CLEAR makes no check, and a cleared CTX lists nothing. -/
theorem bcClearResetsEveryContext : Obligations.BcClearResetsEveryContext :=
  fun s hf => ⟨respondOk [] (ctxClear s), unlessFaulted_of_ok hf, ctxRead_clear s, rfl⟩

/-- Settles O43: both checks pass, and a value up to 4095 is not cut by the 12 bits of a context. -/
theorem bcSetWritesOneContext : Obligations.BcSetWritesOneContext := by
  intro s ctx v hf hctx hv hv'
  obtain ⟨hread, hother⟩ := ctxRead_answered_write (s := s) rfl ctx (v.setWidth 12) []
  refine ⟨_, (unlessFaulted_of_ok hf).trans ?_, ?_, hother, rfl⟩
  · rw [if_neg (by omega), if_neg (by omega)]
    rfl
  · rw [hread, BitVec.toNat_setWidth, Nat.mod_eq_of_lt (by omega)]

/-- Settles O44: the index check passes, and the context is answered zero-extended. -/
theorem bcGetAnswersTheContext : Obligations.BcGetAnswersTheContext := by
  intro s ctx hf hctx
  refine (unlessFaulted_of_ok hf).trans ?_
  rw [if_neg (by omega), asWord, BitVec.ofNat_toNat]
  rfl

/-! ### CheckNext -/

section
variable {s : State} {t : Nat} {st : BitVec 12}

/-- CheckNext of a state with both entries set and in [1, 4095] gives the next state of either bit as its entry
(41_bit_chance R161, R167). -/
theorem checkNext_of_chances {v : Bool → BitVec 16}
    (h : ∀ b, tblEntry s t b st.toNat = some (v b) ∧ 1 ≤ (v b).toNat ∧ (v b).toNat ≤ 4095) :
    ∃ n, checkNext s t st = .ok n ∧ ∀ bit, (nextOf n bit).toNat = (v bit).toNat := by
  have hchance : ∀ b, isChance (v b) = true := fun b => (isChance_iff _).2 (h b).2
  refine ⟨_, (checkNext_ok_iff ..).2 ⟨v false, v true, (h false).1, (h true).1, hchance false, hchance true, rfl⟩, ?_⟩
  intro bit
  cases bit with
  | false => exact (setWidth_of_isChance (hchance false)).1
  | true => exact (setWidth_of_isChance (hchance true)).1

/-- CheckNext that passes found either row's entry set, and a chance (41_bit_chance R167). -/
theorem entry_of_checkNext {n : BitVec 12 × BitVec 12} (h : checkNext s t st = .ok n) (b : Bool) :
    ∃ v, tblEntry s t b st.toNat = some v ∧ isChance v = true := by
  obtain ⟨v0, v1, h0, h1, c0, c1, -⟩ := (checkNext_ok_iff ..).1 h
  cases b with
  | false => exact ⟨v0, h0, c0⟩
  | true => exact ⟨v1, h1, c1⟩

/-- An UNSET entry of either row raises TABLE_UNSET (41_bit_chance R167). -/
theorem checkNext_of_unset {b : Bool} (h : tblEntry s t b st.toNat = none) : checkNext s t st = .error .tableUnset := by
  cases hn : checkNext s t st with
  | ok n =>
    obtain ⟨v, hv, -⟩ := entry_of_checkNext hn b
    cases h.symm.trans hv
  | error c =>
    rcases checkNext_error hn with ⟨rfl, -⟩ | ⟨-, v0, v1, h0, h1, -⟩
    · rfl
    · cases b with
      | false => cases h.symm.trans h0
      | true => cases h.symm.trans h1

/-- With both entries set, one outside [1, 4095] in either row raises BAD_CHANCE (41_bit_chance R167). -/
theorem checkNext_of_bad {b : Bool} {v : BitVec 16} (h0 : tblEntry s t false st.toNat ≠ none)
    (h1 : tblEntry s t true st.toNat ≠ none) (h : tblEntry s t b st.toNat = some v)
    (hv : v.toNat < 1 ∨ 4095 < v.toNat) : checkNext s t st = .error .badChance := by
  cases hn : checkNext s t st with
  | ok n =>
    obtain ⟨u, hu, hc⟩ := entry_of_checkNext hn b
    obtain rfl : v = u := Option.some.inj (h.symm.trans hu)
    have := (isChance_iff v).1 hc
    omega
  | error c =>
    rcases checkNext_error hn with ⟨-, hnone⟩ | ⟨rfl, -⟩
    · exact (hnone.elim h0 h1).elim
    · rfl

end

/-- A fault of CheckNext is the fault of every command that updates a context, with the indexes in range and the session
open (41_bit_chance R166, R168, R169). -/
theorem faults_of_checkNext {s : State} {t ctx : Nat} {c : Cause} (hf : s.faulted = false) (ht : t < s.cfg.ntab)
    (hctx : ctx < s.cfg.nctx) (h : checkNext s t (ctxRead s ctx) = .error c) (bit : Bool) :
    (∃ u, exec (.bcPut t bit ctx) s = .next u ∧ faultedBy (encodeWord (.bcPut t bit ctx)) c s u) ∧
    (s.mode = .enc →
      ∃ u, exec (.encCtx t bit ctx) s = .next u ∧ faultedBy (encodeWord (.encCtx t bit ctx)) c s u) ∧
    (s.mode = .dec → ∃ u, exec (.decCtx t ctx) s = .next u ∧ faultedBy (encodeWord (.decCtx t ctx)) c s u) := by
  have hi := indexOk_of_lt ht hctx
  refine ⟨faults_of_raise hf ?_, fun hm => faults_of_raise hf ?_, fun hm => faults_of_raise hf ?_⟩
  · refine (unlessFaulted_of_ok hf).trans ?_
    rw [if_neg hi, h]
  · refine (unlessFaulted_of_ok hf).trans ?_
    rw [if_neg hi, if_neg (not_not.2 hm), h]
  · refine (unlessFaulted_of_ok hf).trans ?_
    rw [if_neg hi, if_neg (not_not.2 hm), h]

/-- Settles O46: CheckNext reads both rows, so it is the entry and not the bit that decides. -/
theorem updatesCheckBothRows : Obligations.UpdatesCheckBothRows :=
  fun _ _ _ bit _ hf ht hctx =>
    ⟨fun h => faults_of_checkNext hf ht hctx (checkNext_of_unset h) bit,
      fun h0 h1 ⟨_, h, hv⟩ => faults_of_checkNext hf ht hctx (checkNext_of_bad h0 h1 h hv) bit⟩

/-- Settles O45: CheckNext passes, and the next state of the bit is written. -/
theorem bcPutReplacesTheContext : Obligations.BcPutReplacesTheContext := by
  intro s t ctx bit v hf ht hctx hv
  obtain ⟨n, hn, hnext⟩ := checkNext_of_chances hv
  obtain ⟨hread, hother⟩ := ctxRead_answered_write (s := s) rfl ctx (nextOf n bit) []
  refine ⟨_, (unlessFaulted_of_ok hf).trans ?_, (congrArg _ hread).trans (hnext bit), hother, rfl⟩
  rw [if_neg (indexOk_of_lt ht hctx), hn]
  rfl

/-! ### Indexes and values -/

theorem not_indexOk {s : State} {t ctx : Nat} (h : s.cfg.ntab ≤ t ∨ s.cfg.nctx ≤ ctx) : (!indexOk s t ctx) = true := by
  simp only [indexOk, Bool.not_eq_true', decide_eq_false_iff_not]
  omega

section
variable {s : State} {w : Word} {c c' : Cause} {p q : Prop} [Decidable p] [Decidable q] {rest : Result}
  (hf : s.faulted = false)
include hf

/-- The first check of a command faults. -/
theorem raise_of_first (hp : p) : unlessFaulted w s (if p then raiseFault w c s else rest) = raiseFault w c s :=
  (unlessFaulted_of_ok hf).trans (if_pos hp)

/-- The first check passes and the second faults. -/
theorem raise_of_second (hp : ¬ p) (hq : q) :
    unlessFaulted w s (if p then raiseFault w c s else if q then raiseFault w c' s else rest) = raiseFault w c' s :=
  (unlessFaulted_of_ok hf).trans ((if_neg hp).trans (if_pos hq))

end

/-- Settles O52: indexes are checked first, then values, then the entry read. -/
theorem arrayCommandsCheckTheirOperands : Obligations.ArrayCommandsCheckTheirOperands := by
  intro s t ctx cut st bit v hf
  dsimp only
  refine ⟨fun hx => ⟨?_, ?_⟩, fun hi => ?_, fun ht => ⟨?_, ?_, ?_⟩, fun hx hv => ?_, fun ht hv => ?_, fun ht hv => ?_,
    fun ht hn => ?_⟩
  · exact faults_of_raise hf (raise_of_first hf hx)
  · exact faults_of_raise hf (raise_of_first hf hx)
  · have hi := not_indexOk hi
    exact ⟨faults_of_raise hf (raise_of_first hf hi), faults_of_raise hf (raise_of_first hf hi),
      faults_of_raise hf (raise_of_first hf hi)⟩
  · exact faults_of_raise hf (raise_of_first hf ht)
  · exact faults_of_raise hf (raise_of_first hf ht)
  · exact faults_of_raise hf (raise_of_first hf ht)
  · exact faults_of_raise hf (raise_of_second hf (Nat.not_le.2 hx) hv)
  · exact faults_of_raise hf (raise_of_second hf (Nat.not_le.2 ht) (hv.imp_right (congrArg BitVec.toNat)))
  · exact faults_of_raise hf (raise_of_second hf (Nat.not_le.2 ht) hv)
  · refine faults_of_raise hf ((unlessFaulted_of_ok hf).trans ?_)
    rw [if_neg (Nat.not_le.2 ht), hn]

end Sys2Proof.Machine

/-! SUPPORT. The adaptive coding commands: each codes as its explicit twin does, and then updates one context
(41_bit_chance R168, R169). -/

namespace Sys2Proof.Machine

/-- Coding a bit finishes unless one of its scalings finds the pending counter full (40_range_coder R125, R130). -/
theorem exists_encodeBit_done {s : State} {p : Nat} (bit : Bool) (hs : encOk s) (hp : 1 ≤ p) (hp' : p ≤ 4095)
    (hw : pendWOk s) (hno : ∀ j ≤ 1, ¬ overflowsAt s (bitLow s p bit) (bitRange s p bit) j) :
    ∃ u, encodeBit p bit s = .done u := by
  cases he : encodeBit p bit s with
  | done u => exact ⟨u, rfl⟩
  | overflow u =>
    obtain ⟨j, hj, ho, -⟩ := (encodeBit_overflow_iff bit hs hp hp' hw u).1 he
    exact absurd ho (hno j hj)
  | hang => exact absurd he (encodeBit_ne_hang bit hp hp' hs.1.1)

/-- A context that is not 0 is a chance (10_state R50). -/
theorem chance_of_ne_zero {v : BitVec 12} (h : v ≠ 0) : 1 ≤ v.toNat ∧ v.toNat ≤ 4095 := by
  bv_omega

/-- Settles O47: RC_ENC_P leaves the state that EncodeBit finishes in, and ENC_CTX writes the next state into it. -/
theorem encCtxCodesThenUpdates : Obligations.EncCtxCodesThenUpdates := by
  intro s t ctx bit v hf hm hs hw hw' _ ht hctx hne hv hno
  obtain ⟨hp, hp'⟩ := chance_of_ne_zero hne
  obtain ⟨n, hn, hnext⟩ := checkNext_of_chances hv
  obtain ⟨u, hu⟩ := exists_encodeBit_done bit hs hp hp' ⟨hw, hw'⟩ hno
  have hframe := encodeBit_frame (.inl hu)
  obtain ⟨hread, hother⟩ := ctxRead_answered_write (s := s) (u := u) (by rw [hframe]) ctx (nextOf n bit) []
  refine ⟨respondOk [] u, respondOk [] (ctxWrite ctx (nextOf n bit) u), ?_, ?_, ?_, rfl,
    (congrArg _ hread).trans (hnext bit), hother⟩
  · rw [exec_rcEncP_of_ok hf hm (by omega), hu]
    rfl
  · exact hframe.session.faulted.trans hf
  · rw [exec_encCtx_of_ok hf (indexOk_of_lt ht hctx) hm hn, hu]
    rfl

/-- A decode with the bytes its refill needs answers its bit and makes its update, on a state that does not depend on
either (40_range_coder R126, R127). -/
theorem decodeWith_of_bytes {s : State} {p : Nat} (hs : decOk s) (hp : 1 ≤ p) (hp' : p ≤ 4095)
    (hk : shiftsFor (decRange p s) ≤ s.src.length) :
    ∃ u, u.ctx = s.ctx ∧ u.faulted = s.faulted ∧ u.resp = s.resp ∧ ∀ w next,
      decodeWith w p next s = respondOk [bitWord (decBit p s)] (applyUpdate (next (decBit p s)) u) := by
  have hb := decRange_bounds hp hp' hs.1.1
  have hwide := scaled_bounds hb.1 (hb.2.trans hs.1.2)
  have hends : minRange < (refilledBy (shiftsFor (decRange p s)) p s).rcRange.toNat := by
    simp only [refilledBy, BitVec.toNat_ofNat, minRange]
    omega
  refine ⟨setHold none (refilledBy (shiftsFor (decRange p s)) p s), rfl, rfl, rfl, fun w next => ?_⟩
  rw [decodeWith, decRefill_decSplit hs hp hp', Nat.min_eq_left hk, settleDecode, if_pos hends]

/-- Settles O48: both commands decode the same bit into the same state, and DEC_CTX writes the next state into it. -/
theorem decCtxDecodesThenUpdates : Obligations.DecCtxDecodesThenUpdates := by
  intro s t ctx v hf hm _ hs ht hctx hne hv c hk
  obtain ⟨hp, hp'⟩ := chance_of_ne_zero hne
  obtain ⟨n, hn, hnext⟩ := checkNext_of_chances hv
  obtain ⟨u, huctx, hufaulted, huresp, hdecode⟩ := decodeWith_of_bytes hs hp hp' hk
  generalize decBit (ctxRead s ctx).toNat s = bit at hdecode
  obtain ⟨hread, hother⟩ := ctxRead_answered_write huctx ctx (nextOf n bit) [bitWord bit]
  refine ⟨respondOk [bitWord bit] u, respondOk [bitWord bit] (ctxWrite ctx (nextOf n bit) u), bit, ?_,
    hufaulted.trans hf, ?_, ?_, rfl, (congrArg _ hread).trans (hnext bit), hother⟩
  · rw [exec_rcDecP_of_ok hf hm (by omega), hdecode]
    rfl
  · rw [answered, respondOk_resp, huresp, bitWord_eq]
  · rw [exec_decCtx_of_ok hf (indexOk_of_lt ht hctx) hm hn, hdecode]
    rfl

/-! ### A truncated decode -/

theorem not_truncated_takeFault {w : Word} {c : Cause} {s : State} {Q : Prop} (hc : c ≠ .streamTruncated)
    (h : answered s (takeFault w c s) (.fault .streamTruncated)) : Q :=
  absurd (by simpa [answered] using h) hc

/-- DEC_CTX that raises STREAM_TRUNCATED made all its checks, in mode DEC, and decoded (41_bit_chance R169). -/
theorem decCtx_truncated {s : State} (hf : s.faulted = false) (t ctx : Nat) :
    Ensures (fun w => answered s w (.fault .streamTruncated) → s.mode = .dec ∧
      ∃ next, w = decodeWith (encodeWord (.decCtx t ctx)) (ctxRead s ctx).toNat next s) (exec (.decCtx t ctx) s) := by
  refine ensures_unlessFaulted (fun h => by simp [hf] at h) fun _ =>
    ensures_check (fun _ => not_truncated_takeFault (by decide)) fun _ =>
    ensures_check (fun _ => not_truncated_takeFault (by decide)) fun hm =>
    ensures_checkNext (fun c hc => not_truncated_takeFault ?_) fun n _ => ensures_next fun _ => ⟨not_not.1 hm, _, rfl⟩
  rcases checkNext_error hc with ⟨rfl, -⟩ | ⟨rfl, -⟩ <;> decide

@[simp] theorem applyUpdate_resp (o : Option (Nat × BitVec 12)) (s : State) : (applyUpdate o s).resp = s.resp := by
  cases o with
  | none => rfl
  | some x => rfl

/-- A decode that raises STREAM_TRUNCATED ended DecRefill with too narrow an interval on an ended source, where any
other with the same chance also ends so (40_range_coder R127, 20_memory R73). -/
theorem decodeWith_truncated {s : State} {w : Word} {p : Nat} {next : Bool → Option (Nat × BitVec 12)}
    (h : answered s (decodeWith w p next s) (.fault .streamTruncated)) :
    ∃ u, frameSource s u ∧ u.src = [] ∧ ∀ w' next',
      decodeWith w' p next' s = takeFault w' .streamTruncated (setHold none u) := by
  have hframe := (decSplit_frame p s).trans (decRefill_frame s.src _)
  rcases settleDecode_cases w (decBit p s) (next (decBit p s)) (decRefill s.src (decSplit p s)) with
    ⟨-, he⟩ | ⟨hr, heof, -⟩ | ⟨-, -, he⟩
  · simp [decodeWith, he, answered, hframe.resp] at h
  · have hend := (decRefill_end (decSplit_src p s)).resolve_left (Nat.not_lt.2 hr)
    refine ⟨_, hframe, hend, fun w' next' => ?_⟩
    rw [decodeWith, settleDecode, if_neg (Nat.not_lt.2 hr), if_pos heof]
  · simp [decodeWith, he, answered, hframe.resp] at h

/-- Settles O49: the truncated decode wrote no context, and RC_DEC_P with the same chance ends in the same coder. -/
theorem truncatedDecCtxKeepsTheContexts : Obligations.TruncatedDecCtxKeepsTheContexts := by
  intro s w t ctx hf _ hne h ha
  obtain ⟨hp, -⟩ := chance_of_ne_zero hne
  obtain ⟨hm, next, rfl⟩ := decCtx_truncated hf t ctx w h ha
  obtain ⟨u, hframe, hsrc, hends⟩ := decodeWith_truncated ha
  rw [exec_rcDecP_of_ok hf hm (by omega), hends, hends]
  refine ⟨?_, ?_, rfl, ?_, hsrc, _, rfl, by simp, by simp, by simp⟩
  · rw [hframe]
    rfl
  · rw [hframe]
    exact hm
  · exact if_neg (Bool.eq_false_iff.1 (hframe.session.faulted.trans hf))

end Sys2Proof.Machine

/-! SUPPORT. The table commands: what the entries and parameters of a table read after TBL_BUILD and TBL_WRITE
(41_bit_chance R170 to R174). -/

namespace Sys2Proof.Machine

/-- After the parameters of a table are set and an answer is given, on a state with the parameters of `s`, the table reads
what was set and every other what `s` has. -/
theorem tblParams_answered_set {s u : State} (hcut : u.tblCut = s.tblCut) (halpha : u.tblAlpha = s.tblAlpha) (t : Nat)
    (cut alpha : Word) (ws : List Word) :
    let r := respondOk ws (setTblParams t cut alpha u)
    tblCutOf r t = cut ∧ tblAlphaOf r t = alpha ∧
      ∀ k, k ≠ t → tblCutOf r k = tblCutOf s k ∧ tblAlphaOf r k = tblAlphaOf s k := by
  have hreadCut (k : Nat) := tblCutOf_set u t k cut alpha
  have hreadAlpha (k : Nat) := tblAlphaOf_set u t k cut alpha
  refine ⟨(hreadCut t).trans (if_pos rfl), (hreadAlpha t).trans (if_pos rfl), fun k hk => ⟨?_, ?_⟩⟩
  · exact (hreadCut k).trans ((if_neg hk).trans (congrArg (cellGet 0 · k) hcut))
  · exact (hreadAlpha k).trans ((if_neg hk).trans (congrArg (cellGet 0 · k) halpha))

/-- The entries of the default builder as they are stored (10_state R51). -/
theorem storedRow_getElem? {vs : List Nat} {i : Nat} (h : i < vs.length) :
    (storedRow vs)[i]? = some (BitVec.ofNat 16 (vs.getD i 0)) := by
  simp [storedRow, h]

theorem specUp_length (cut alpha : Nat) : (specUp cut alpha).length = 4096 := buildUp_length ..

theorem mirrorRow_length {up : List Nat} (h : up.length = 4096) : (mirrorRow up).length = 4096 := by
  simp [mirrorRow, h]

/-- TBL of table `t` with row P_BIT loaded from `up` and the other from `dn` (41_bit_chance R172). -/
def tblLoadFor (t : Nat) (up dn : List (BitVec 16)) (s : State) : State :=
  if s.cfg.pBit then tblLoad t dn up s else tblLoad t up dn s

theorem tblLoadFor_frame (t : Nat) (up dn : List (BitVec 16)) (s : State) :
    tblLoadFor t up dn s = { s with tbl := (tblLoadFor t up dn s).tbl } := by
  unfold tblLoadFor
  split
  · rfl
  · rfl

/-- The rows of table `t` read as loaded, whichever bit P_BIT is, and every other table reads as before. -/
theorem tblEntry_loadFor (s : State) {t : Nat} {up dn : List (BitVec 16)} (hup : up.length = 4096)
    (hdn : dn.length = 4096) {st : Nat} (hst : st < 4096) :
    tblEntry (tblLoadFor t up dn s) t s.cfg.pBit st = up[st]? ∧
    tblEntry (tblLoadFor t up dn s) t (!s.cfg.pBit) st = dn[st]? ∧
    ∀ k b, k ≠ t → tblEntry (tblLoadFor t up dn s) k b st = tblEntry s k b st := by
  unfold tblLoadFor
  cases s.cfg.pBit with
  | false =>
    have hread (k : Nat) (b : Bool) := tblEntry_load s (t := t) (t' := k) (b := b) hup hdn hst
    exact ⟨(hread t false).trans (if_pos rfl), (hread t true).trans (if_pos rfl),
      fun k b hk => (hread k b).trans (if_neg hk)⟩
  | true =>
    have hread (k : Nat) (b : Bool) := tblEntry_load s (t := t) (t' := k) (b := b) hdn hup hst
    exact ⟨(hread t true).trans (if_pos rfl), (hread t false).trans (if_pos rfl),
      fun k b hk => (hread k b).trans (if_neg hk)⟩

/-- TBL_BUILD past its checks (41_bit_chance R172). -/
theorem exec_tblBuild_of_ok {s : State} {t cut : Nat} {alpha : Word} (hf : s.faulted = false) (ht : t < s.cfg.ntab)
    (hcut : 1 ≤ cut) (halpha : alpha ≠ 0) :
    exec (.tblBuild t cut alpha) s = .next (respondOk [] (setTblParams t (asWord cut) alpha
      (tblLoadFor t (buildFn s.cfg.buildFn cut alpha.toNat).1 (buildFn s.cfg.buildFn cut alpha.toNat).2 s))) := by
  have hpos : ¬ (cut = 0 ∨ alpha.toNat = 0) := by bv_omega
  refine (unlessFaulted_of_ok hf).trans ?_
  rw [if_neg (Nat.not_le.2 ht), if_neg hpos]
  rfl

/-- Settles O50: TBL_BUILD sets the parameters of the table and loads its rows, to which BUILD_FN gives 4096 entries
each. -/
theorem tblBuildLoadsBothRows : Obligations.TblBuildLoadsBothRows := by
  intro s t cut alpha hf ht hcut hcut' halpha rows
  obtain ⟨hup, hdn⟩ : rows.1.length = 4096 ∧ rows.2.length = 4096 := buildFn_length ..
  have hframe := tblLoadFor_frame t rows.1 rows.2 s
  have hread {st : Nat} (hst : st < 4096) := tblEntry_loadFor s (t := t) hup hdn hst
  obtain ⟨hcutOf, halphaOf, hparams⟩ := tblParams_answered_set (s := s) (u := tblLoadFor t rows.1 rows.2 s)
    (by rw [hframe]) (by rw [hframe]) t (asWord cut) alpha []
  refine ⟨hup, hdn, _, exec_tblBuild_of_ok hf ht hcut halpha, fun st hst => ?_, fun hspec st hst => ?_,
    fun k b st hk hst => (hread hst).2.2 k b hk, ?_, halphaOf, hparams, ?_⟩
  · obtain ⟨hrow, hother, -⟩ := hread hst
    exact ⟨hrow, hother⟩
  · obtain ⟨hrow, hother, -⟩ := hread hst
    have hlen := specUp_length cut alpha.toNat
    have hrows : rows = (storedRow (specUp cut alpha.toNat), storedRow (mirrorRow (specUp cut alpha.toNat))) := by
      simp only [rows, hspec, buildFn]
    refine ⟨hrow.trans ?_, hother.trans ?_⟩
    · rw [hrows, storedRow_getElem? (hlen ▸ hst)]
    · rw [hrows, storedRow_getElem? (mirrorRow_length hlen ▸ hst)]
  · rw [hcutOf, asWord, BitVec.toNat_ofNat, Nat.mod_eq_of_lt (by omega)]
  · rw [hframe]
    rfl

/-- Settles O51: TBL_WRITE puts one entry and clears the parameters of its table; TBL_READ finds the entry set. -/
theorem tblWriteStoresAndTblReadAnswers : Obligations.TblWriteStoresAndTblReadAnswers := by
  intro s t b st hf ht hst
  refine ⟨fun v hv => ?_, fun v hv => ?_⟩
  · obtain ⟨hcut, halpha, hparams⟩ := tblParams_answered_set (s := s) (u := tblPut t b st (v.setWidth 16) s)
      rfl rfl t 0 0 []
    refine ⟨_, (unlessFaulted_of_ok hf).trans ?_, ?_, fun k c x hx hother => ?_, hcut, halpha, hparams, rfl⟩
    · rw [if_neg (Nat.not_le.2 ht), if_neg (by omega)]
      rfl
    · exact (tblEntry_put s hst hst _).trans (if_pos ⟨rfl, rfl, rfl⟩)
    · exact (tblEntry_put s hst hx _).trans (if_neg (by tauto))
  · refine (unlessFaulted_of_ok hf).trans ?_
    rw [if_neg (Nat.not_le.2 ht), hv, ← BitVec.ofNat_toNat]
    rfl

end Sys2Proof.Machine

/-! SUPPORT. The default tables: the first pass of the builder is the path of the rule, the second fills the gaps, and
what both rows then hold (41_bit_chance R171, R175). -/

namespace Sys2Proof.Machine

/-- In a sorted array an index is listed with one value. -/
theorem cellFind_eq_some_iff {α : Type} {m : List (Nat × α)} (h : cellsSorted m) (k : Nat) (v : α) :
    cellFind m k = some v ↔ (k, v) ∈ m := by
  induction m with
  | nil => simp
  | cons x m ih =>
    obtain ⟨j, u⟩ := x
    obtain ⟨hj, hm⟩ := List.pairwise_cons.1 h
    rw [cellFind_cons, List.mem_cons, Prod.mk.injEq]
    split
    · rename_i hjk
      subst hjk
      have hnot : (j, v) ∉ m := fun hin => lt_irrefl j (hj _ hin)
      simp [hnot, eq_comm]
    · rename_i hjk
      simp [ih hm, Ne.symm hjk]

/-! ### The two passes -/

/-- Iteration `i` of the first pass: the state it finds in `last`, and the one it leaves there (41_bit_chance R171). -/
def pathEntry (alpha i : Nat) : Nat × Nat := (pathState alpha i, pathState alpha (i + 1))

/-- The first pass writes the next state of each iteration that its condition lets write. -/
theorem buildPath_eq (alpha m n k : Nat) :
    buildPath alpha m n (pathState alpha k) (pathProb alpha k) =
      ((List.range' k n).map (pathEntry alpha)).filter (fun x => x.1 ≠ 0 ∧ x.1 < 4096 ∧ x.2 ≤ m) := by
  induction n generalizing k with
  | zero => rfl
  | succ n ih =>
    have hstate : (if round12 (pathProb alpha k) ≤ pathState alpha k then pathState alpha k + 1
        else round12 (pathProb alpha k)) = pathState alpha (k + 1) := ite_le_eq_max _ _
    have hprob : stepUp alpha (pathProb alpha k) = pathProb alpha (k + 1) := rfl
    rw [buildPath, hstate, hprob, ih (k + 1), List.range'_succ, List.map_cons, List.filter_cons]
    exact if_congr decide_eq_true_iff.symm rfl rfl

/-- The next states that the first pass writes, by the state they are written for (41_bit_chance R171). -/
def specPath (cut alpha : Nat) : List (Nat × Nat) := buildPath alpha (4096 - cut) 2048 0 (2 ^ 31)

theorem specPath_eq (cut alpha : Nat) : specPath cut alpha =
    ((List.range' 0 2048).map (pathEntry alpha)).filter (fun x => x.1 ≠ 0 ∧ x.1 < 4096 ∧ x.2 ≤ 4096 - cut) :=
  buildPath_eq alpha (4096 - cut) 2048 0

/-- The path rises, so no state is written twice. -/
theorem specPath_sorted (cut alpha : Nat) : cellsSorted (specPath cut alpha) := by
  rw [specPath_eq]
  refine List.Pairwise.filter _ (List.pairwise_map.2 ?_)
  exact (List.pairwise_lt_range' ..).imp fun h => strictMono_nat_of_lt_succ (pathState_lt alpha) h

/-- What the first pass writes for a state, which is never 0 (41_bit_chance R171). -/
theorem specPath_find_iff {cut alpha i v : Nat} : cellFind (specPath cut alpha) i = some v ↔
    i ≠ 0 ∧ ∃ n < 2048, pathState alpha n = i ∧ pathState alpha (n + 1) = v ∧ v ≤ 4096 - cut := by
  rw [cellFind_eq_some_iff (specPath_sorted cut alpha), specPath_eq, List.mem_filter, List.mem_map]
  simp only [List.mem_range'_1, pathEntry, Prod.mk.injEq, decide_eq_true_eq]
  constructor
  · rintro ⟨⟨n, hn, rfl, rfl⟩, hi, -, hv⟩
    exact ⟨hi, n, by omega, rfl, rfl, hv⟩
  · rintro ⟨hi, n, hn, rfl, rfl, hv⟩
    have := pathState_lt alpha n
    exact ⟨⟨n, by omega, rfl, rfl⟩, hi, by omega, hv⟩

/-- It writes for states from 2048 on, and a next state above the state and within the clamp (41_bit_chance R171). -/
theorem specPath_bounds {cut alpha i v : Nat} (h : cellFind (specPath cut alpha) i = some v) :
    2048 ≤ i ∧ i < v ∧ v ≤ 4096 - cut := by
  obtain ⟨hi, n, -, rfl, rfl, hv⟩ := specPath_find_iff.1 h
  refine ⟨?_, pathState_lt alpha n, hv⟩
  cases n with
  | zero => exact absurd rfl hi
  | succ n => exact pathState_ge alpha n

/-- What the second pass puts where the first wrote nothing (41_bit_chance R171). -/
def gapEntry (cut alpha m i : Nat) : Nat := if cut ≤ i ∧ i ≤ m then gapState alpha m i else 0

/-- The second pass at state `i`: it puts the path's next state or its own, and goes on with the rest of the path. -/
theorem buildUp_succ (cut alpha m n : Nat) {i : Nat} {path : List (Nat × Nat)} (hs : cellsSorted path)
    (hi : ∀ x ∈ path, i ≤ x.1) :
    ∃ rest, buildUp cut alpha m (n + 1) i path =
        cellGet (gapEntry cut alpha m i) path i :: buildUp cut alpha m n (i + 1) rest ∧
      cellsSorted rest ∧ (∀ x ∈ rest, i + 1 ≤ x.1) ∧ ∀ k, i < k → cellFind rest k = cellFind path k := by
  cases path with
  | nil => exact ⟨[], by simp [buildUp, buildGap_eq, gapEntry, cellGet], hs, nofun, fun _ _ => rfl⟩
  | cons x rest =>
    obtain ⟨j, v⟩ := x
    obtain ⟨hj, hrest⟩ := List.pairwise_cons.1 hs
    have hij : i ≤ j := hi _ (List.mem_cons_self ..)
    by_cases hji : j = i
    · subst hji
      refine ⟨rest, by simp [buildUp, cellGet, cellFind_cons], hrest, hj, fun k hk => ?_⟩
      rw [cellFind_cons, if_neg hk.ne]
    · have hbeyond : ∀ x ∈ (j, v) :: rest, i + 1 ≤ x.1 :=
        List.forall_mem_cons.2 ⟨by omega, fun x hx => by have := hj x hx; omega⟩
      have hnone : cellFind ((j, v) :: rest) i = none :=
        Option.eq_none_iff_forall_ne_some.2 fun u hu => by
          have := hbeyond _ ((cellFind_eq_some_iff hs i u).1 hu)
          omega
      exact ⟨_, by simp [buildUp, buildGap_eq, gapEntry, cellGet, hnone, hji], hs, hbeyond, fun _ _ => rfl⟩

/-- Every entry of the row is the path's next state where the first pass wrote one, and the second pass's elsewhere. -/
theorem buildUp_getElem? (cut alpha m : Nat) {n i k : Nat} {path : List (Nat × Nat)} (hs : cellsSorted path)
    (hi : ∀ x ∈ path, i ≤ x.1) (hk : k < n) :
    (buildUp cut alpha m n i path)[k]? = some (cellGet (gapEntry cut alpha m (i + k)) path (i + k)) := by
  induction n generalizing i k path with
  | zero => omega
  | succ n ih =>
    obtain ⟨rest, hstep, hrest, hge, hfind⟩ := buildUp_succ cut alpha m n hs hi
    rw [hstep]
    cases k with
    | zero => rfl
    | succ k =>
      have hindex : i + 1 + k = i + (k + 1) := by omega
      rw [List.getElem?_cons_succ, ih hrest hge (by omega), hindex, cellGet, cellGet, hfind _ (by omega)]

/-! ### The entries of both rows -/

section
variable {cut alpha i : Nat}

theorem specUp_eq : specUp cut alpha = buildUp cut alpha (4096 - cut) 4096 0 (specPath cut alpha) := rfl

theorem specUp_getD (hi : i < 4096) : (specUp cut alpha).getD i 0 =
    cellGet (gapEntry cut alpha (4096 - cut) i) (specPath cut alpha) i := by
  have h := buildUp_getElem? cut alpha (4096 - cut) (specPath_sorted cut alpha) (fun _ _ => Nat.zero_le _) hi
  rw [Nat.zero_add] at h
  rw [List.getD_eq_getElem?_getD, specUp_eq, h, Option.getD_some]

/-- An entry of `up` is the path's or the second pass's (41_bit_chance R171). -/
theorem specUp_cases (hi : i < 4096) :
    cellFind (specPath cut alpha) i = some ((specUp cut alpha).getD i 0) ∨
    cellFind (specPath cut alpha) i = none ∧ (specUp cut alpha).getD i 0 = gapEntry cut alpha (4096 - cut) i := by
  rw [specUp_getD hi, cellGet]
  cases cellFind (specPath cut alpha) i with
  | none => exact .inr ⟨rfl, rfl⟩
  | some v => exact .inl rfl

/-- Where the first pass writes an entry, `up` has it (41_bit_chance R171). -/
theorem specUp_of_path {n : Nat} (hi : i ≠ 0) (hi' : i < 4096) (hn : n < 2048) (h : pathState alpha n = i)
    (hm : pathState alpha (n + 1) ≤ 4096 - cut) : (specUp cut alpha).getD i 0 = pathState alpha (n + 1) := by
  rw [specUp_getD hi', cellGet, specPath_find_iff.2 ⟨hi, n, hn, h, rfl, hm⟩, Option.getD_some]

/-- Where it writes none, an entry between the clamps is the second pass's (41_bit_chance R171). -/
theorem specUp_of_gap (hcut : 1 ≤ cut) (hi : cut ≤ i) (hi' : i ≤ 4096 - cut)
    (h : ∀ n < 2048, pathState alpha n = i → 4096 - cut < pathState alpha (n + 1)) :
    (specUp cut alpha).getD i 0 = gapState alpha (4096 - cut) i := by
  rcases specUp_cases (cut := cut) (alpha := alpha) (i := i) (by omega) with hpath | ⟨-, hgap⟩
  · obtain ⟨-, n, hn, hni, hv, hle⟩ := specPath_find_iff.1 hpath
    have := h n hn hni
    omega
  · rw [hgap, gapEntry, if_pos ⟨hi, hi'⟩]

/-- Between the clamps `up` raises a state, up to the clamp (41_bit_chance R175 items 1, 2). -/
theorem specUp_inside (hcut : 1 ≤ cut) (hi : cut ≤ i) (hi' : i ≤ 4096 - cut) :
    min (i + 1) (4096 - cut) ≤ (specUp cut alpha).getD i 0 ∧ (specUp cut alpha).getD i 0 ≤ 4096 - cut := by
  rcases specUp_cases (cut := cut) (alpha := alpha) (i := i) (by omega) with hpath | ⟨-, hgap⟩
  · obtain ⟨-, hlt, hle⟩ := specPath_bounds hpath
    omega
  · rw [hgap, gapEntry, if_pos ⟨hi, hi'⟩]
    exact ⟨min_le_min_right _ (le_max_left ..), min_le_right ..⟩

/-- Outside them `up` holds 0 (41_bit_chance R175 item 5). -/
theorem specUp_outside (hcut : cut ≤ 15) (hi : i < 4096) (hout : i < cut ∨ 4096 - cut < i) :
    (specUp cut alpha).getD i 0 = 0 := by
  rcases specUp_cases (cut := cut) (alpha := alpha) hi with hpath | ⟨-, hgap⟩
  · obtain ⟨hge, hlt, hle⟩ := specPath_bounds hpath
    omega
  · rw [hgap, gapEntry, if_neg (by omega)]

end

/-- The row `dn` mirrors `up` (41_bit_chance R171). -/
theorem mirrorRow_getD {up : List Nat} (h : up.length = 4096) {i : Nat} (hi : 1 ≤ i) (hi' : i ≤ 4095) :
    (mirrorRow up).getD i 0 = 4096 - up.getD (4096 - i) 0 := by
  obtain ⟨k, rfl⟩ := Nat.exists_eq_add_of_le' hi
  have hrev : k < up.tail.length := by rw [List.length_tail]; omega
  have hindex : up.tail.length - 1 - k + 1 = 4096 - (k + 1) := by rw [List.length_tail]; omega
  have hmem : 4096 - (k + 1) < up.length := by omega
  rw [mirrorRow, List.getD_cons_succ, List.getD_eq_getElem?_getD, List.getElem?_map, List.getElem?_reverse hrev,
    List.getElem?_tail, hindex, List.getD_eq_getElem?_getD, List.getElem?_eq_getElem hmem]
  rfl

/-- Settles O53: the entries of `up` by the two passes, and those of `dn` as their mirror. -/
theorem defaultTablesStayInsideTheClamps : Obligations.DefaultTablesStayInsideTheClamps := by
  intro cut alpha hcut hcut' _ _ m up dn
  have hlen := specUp_length cut alpha
  have hin {i : Nat} (hi : cut ≤ i) (hi' : i ≤ m) : min (i + 1) m ≤ up i ∧ up i ≤ m := specUp_inside hcut hi hi'
  have hout {i : Nat} (hi : i < 4096) (h : i < cut ∨ m < i) : up i = 0 := specUp_outside hcut' hi h
  have hdn {i : Nat} (hi : 1 ≤ i) (hi' : i ≤ 4095) : dn i = 4096 - up (4096 - i) := mirrorRow_getD hlen hi hi'
  have hm : m = 4096 - cut := rfl
  refine ⟨fun i hi hi' => ⟨fun n hn => specUp_of_path (by omega) (by omega) hn, specUp_of_gap hcut hi hi'⟩,
    pathState_lt alpha, hlen, mirrorRow_length hlen, fun i hi hi' => ?_, fun i hi hi' => ?_, ?_, fun i hi hi' => ?_, ?_,
    fun i => hdn, rfl, fun i hi h => ⟨hout (by omega) h, fun hi1 => ?_⟩⟩
  · have hu := hin hi hi'
    have hv := hin (i := 4096 - i) (by omega) (by omega)
    have hd := hdn (i := i) (by omega) (by omega)
    omega
  · have hu := hin hi hi'.le
    omega
  · have hu := hin (i := m) (by omega) le_rfl
    omega
  · have hv := hin (i := 4096 - i) (by omega) (by omega)
    have hd := hdn (i := i) (by omega) (by omega)
    omega
  · have hv := hin (i := 4096 - cut) (by omega) (by omega)
    have hd := hdn (i := cut) hcut (by omega)
    omega
  · have hv := hout (i := 4096 - i) (by omega) (by omega)
    have hd := hdn hi1 hi
    omega

end Sys2Proof.Machine

/-! SUPPORT. The YCoCg transform as a bijection of the integer triples, and the range oracle as the image of the cube
under it (42_ycocg R202 to R205, R209, R214, R217). -/

namespace Sys2Proof.Machine

/-! ### The transform -/

/-- The forward transform, its shifts written as quotients (42_ycocg R202). -/
theorem yccForward_eq (r g b : Int) : yccForward r g b = ⟨((r + b) / 2 + g) / 2, r - b - 1, (r + b) / 2 - g - 1⟩ := rfl

/-- The inverse transform, its shifts written as quotients (42_ycocg R204). -/
theorem yccInverse_eq (y co cg : Int) : yccInverse y co cg =
    ⟨y + (cg + 2) / 2 + (co + 2) / 2, y - (cg + 1) / 2, y + (cg + 2) / 2 - (co + 1) / 2⟩ := rfl

/-- Settles O54: green comes back from Y and Cg, then half the sum of red and blue, and these from it and Co. -/
theorem yccInverseUndoesForward : Obligations.YccInverseUndoesForward := by
  intro r g b
  rw [yccForward_eq, yccInverse_eq, Triple.mk.injEq]
  dsimp only
  have hg : ((r + b) / 2 + g) / 2 - ((r + b) / 2 - g - 1 + 1) / 2 = g := by omega
  have hh : ((r + b) / 2 + g) / 2 + ((r + b) / 2 - g - 1 + 2) / 2 = (r + b) / 2 := by omega
  rw [hg, hh]
  omega

/-- The forward transform undoes the inverse one on all integers too. -/
theorem yccForward_yccInverse (y co cg : Int) :
    yccForward (yccInverse y co cg).x (yccInverse y co cg).y (yccInverse y co cg).z = ⟨y, co, cg⟩ := by
  rw [yccInverse_eq, yccForward_eq, Triple.mk.injEq]
  dsimp only
  have hh : (y + (cg + 2) / 2 + (co + 2) / 2 + (y + (cg + 2) / 2 - (co + 1) / 2)) / 2 = y + (cg + 2) / 2 := by omega
  rw [hh]
  omega

/-- Every triple is the transform of exactly one pixel, its inverse. -/
theorem yccForward_eq_iff {r g b y co cg : Int} : yccForward r g b = ⟨y, co, cg⟩ ↔ yccInverse y co cg = ⟨r, g, b⟩ := by
  constructor
  · intro h
    have hinv := yccInverseUndoesForward r g b
    rwa [h] at hinv
  · intro h
    have hfwd := yccForward_yccInverse y co cg
    rwa [h] at hfwd

/-- The transform of a pixel of the cube `[0, 4 par - 1]^3` lies in the unconditional ranges (42_ycocg R217). -/
theorem yccForward_bounds {par r g b : Int} (hr : 0 ≤ r ∧ r ≤ 4 * par - 1) (hg : 0 ≤ g ∧ g ≤ 4 * par - 1)
    (hb : 0 ≤ b ∧ b ≤ 4 * par - 1) :
    (0 ≤ (yccForward r g b).x ∧ (yccForward r g b).x ≤ 4 * par - 1) ∧
    (-4 * par ≤ (yccForward r g b).y ∧ (yccForward r g b).y ≤ 4 * par - 2) ∧
    (-4 * par ≤ (yccForward r g b).z ∧ (yccForward r g b).z ≤ 4 * par - 2) := by
  rw [yccForward_eq]
  dsimp only
  omega

/-! ### The oracle -/

section
variable {par y co cg : Int}

/-- The window of `co` is symmetric about -1, and in each region one of three bounds binds (42_ycocg R209). -/
theorem coWindow_iff (hpar : 1 ≤ par) : (minCo par y ≤ co ∧ co ≤ maxCo par y) ↔
    |co + 1| ≤ 4 * y + 3 ∧ |co + 1| ≤ 4 * par - 1 ∧ |co + 1| ≤ 16 * par - 4 - 4 * y := by
  simp only [abs_le]
  unfold minCo maxCo
  split
  · omega
  · split <;> omega

/-- `min_cg` with its term `k` in place (42_ycocg R214). -/
theorem tightMinCg_eq : tightMinCg par y co = max (-2 - 2 * y + 2 * (|co + 1| / 2)) (2 * y - 8 * par + 1) := rfl

/-- `max_cg` with its term `c` in place (42_ycocg R214). -/
theorem tightMaxCg_eq : tightMaxCg par y co = min (2 * y) (8 * par - 3 - 2 * y - 2 * ((|co + 1| + 1) / 2)) := rfl

/-- The tight range has a value exactly when `co` lies in the window of `y` (42_ycocg R214). -/
theorem tightCg_nonempty_iff (hpar : 1 ≤ par) :
    tightMinCg par y co ≤ tightMaxCg par y co ↔ minCo par y ≤ co ∧ co ≤ maxCo par y := by
  have := abs_nonneg (co + 1)
  rw [coWindow_iff hpar, tightMinCg_eq, tightMaxCg_eq]
  omega

/-- Red and blue lie half of `|co + 1|` to either side of their mean `h`, the larger one rounded up, so both lie in the
cube exactly when `h` keeps that distance from its ends. -/
theorem redBlue_in_cube_iff {m h : Int} :
    ((0 ≤ h + (co + 2) / 2 ∧ h + (co + 2) / 2 ≤ m) ∧ 0 ≤ h - (co + 1) / 2 ∧ h - (co + 1) / 2 ≤ m) ↔
      |co + 1| / 2 ≤ h ∧ h ≤ m - (|co + 1| + 1) / 2 := by
  rcases abs_cases (co + 1) with ⟨ha, hsign⟩ | ⟨ha, hsign⟩
  · rw [ha]
    omega
  · rw [ha]
    omega

/-- The inverse of a triple is a pixel of the cube exactly when `cg` lies in the tight range: green gives one bound at
either end, the mean of red and blue the other (42_ycocg R214). -/
theorem yccInverse_in_cube_iff :
    ((0 ≤ (yccInverse y co cg).x ∧ (yccInverse y co cg).x ≤ 4 * par - 1) ∧
      (0 ≤ (yccInverse y co cg).y ∧ (yccInverse y co cg).y ≤ 4 * par - 1) ∧
      0 ≤ (yccInverse y co cg).z ∧ (yccInverse y co cg).z ≤ 4 * par - 1) ↔
      tightMinCg par y co ≤ cg ∧ cg ≤ tightMaxCg par y co := by
  rw [yccInverse_eq, and_left_comm]
  dsimp only
  rw [redBlue_in_cube_iff, tightMinCg_eq, tightMaxCg_eq]
  omega

/-- In the window of `co` every Y is one of the cube (42_ycocg R208). -/
theorem y_in_range_of_coWindow (hpar : 1 ≤ par) (h : minCo par y ≤ co ∧ co ≤ maxCo par y) : 0 ≤ y ∧ y ≤ 4 * par - 1 := by
  have := abs_nonneg (co + 1)
  rw [coWindow_iff hpar] at h
  omega

/-- Inside the window the bounds of `co` and of `cg` are at most 8 par in magnitude (42_ycocg R217). -/
theorem oracle_abs_le (h0 : 0 ≤ y) (h1 : y ≤ 4 * par - 1) :
    (|minCo par y| ≤ 8 * par ∧ |maxCo par y| ≤ 8 * par) ∧
    ((minCo par y ≤ co ∧ co ≤ maxCo par y) → |tightMinCg par y co| ≤ 8 * par ∧ |tightMaxCg par y co| ≤ 8 * par) := by
  constructor
  · simp only [abs_le]
    unfold minCo maxCo
    split
    · omega
    · split <;> omega
  · intro h
    have hpar : 1 ≤ par := by omega
    have := abs_nonneg (co + 1)
    rw [coWindow_iff hpar] at h
    rw [abs_le, abs_le, tightMinCg_eq, tightMaxCg_eq]
    omega

end

/-- Settles O60: the one pixel a triple can come from is its inverse, which lies in the cube exactly when `cg` is in the
tight range; and that range has a value only inside the window. -/
theorem rangeOracleIsExact : Obligations.RangeOracleIsExact := by
  intro par y co cg hpar
  refine ⟨⟨?_, ?_⟩, fun _ _ hlo hhi => (tightCg_nonempty_iff hpar).2 ⟨hlo, hhi⟩⟩
  · rintro ⟨r, g, b, hr, hg, hb, hfwd⟩
    have hcg : tightMinCg par y co ≤ cg ∧ cg ≤ tightMaxCg par y co := by
      rw [← yccInverse_in_cube_iff, yccForward_eq_iff.1 hfwd]
      exact ⟨hr, hg, hb⟩
    have hco := (tightCg_nonempty_iff hpar).1 (hcg.1.trans hcg.2)
    exact ⟨y_in_range_of_coWindow hpar hco, hco, hcg⟩
  · rintro ⟨-, -, hcg⟩
    obtain ⟨hr, hg, hb⟩ := yccInverse_in_cube_iff.2 hcg
    exact ⟨_, _, _, hr, hg, hb, yccForward_yccInverse y co cg⟩

end Sys2Proof.Machine

/-! SUPPORT. The YC commands: what an attached transform guarantees, when each command passes its checks, and the words
it answers (42_ycocg R201, R206, R207, R210 to R212, R215). -/

namespace Sys2Proof.Machine

/-! ### Results as signed words -/

/-- A result that fits in a signed word reads back as itself (00_scope R8). -/
theorem toInt_asU32 {v : Int} (h : -2 ^ 31 ≤ v ∧ v ≤ 2 ^ 31 - 1) : (asU32 v).toInt = v :=
  BitVec.toInt_ofInt_eq_self (by decide) h.1 (by omega)

/-- So does a result that is small, as all that YC handles are (42_ycocg R217). -/
theorem toInt_asU32_of_abs_le {v : Int} (h : |v| ≤ 2 ^ 27) : (asU32 v).toInt = v := by
  obtain ⟨h0, h1⟩ := abs_le.1 h
  exact toInt_asU32 (by omega)

/-! ### An attached transform -/

/-- YC_PAR covers the plane maxima and stays within 2^24 (42_ycocg R200, R217). -/
theorem Inv.par_bounds {s : State} (hs : Inv s) (ha : s.attached = true) :
    ((s.ycMax0.toNat : Int) ≤ 4 * s.ycPar.toNat - 1 ∧ (s.ycMax1.toNat : Int) ≤ 4 * s.ycPar.toNat - 1 ∧
      (s.ycMax2.toNat : Int) ≤ 4 * s.ycPar.toNat - 1) ∧
    1 ≤ (s.ycPar.toNat : Int) ∧ (s.ycPar.toNat : Int) ≤ 2 ^ 24 := by
  obtain ⟨hpar, htop⟩ := hs.attached ha
  have hV := hs.cfg.ycMaxV_le
  omega

theorem clipFlag_of_ctrl_one {s : State} (h : s.ctrl = 1) : clipFlag s = true := by
  rw [clipFlag, h]
  rfl

theorem clipFlag_of_ctrl_zero {s : State} (h : s.ctrl = 0) : ¬ clipFlag s = true := by
  rw [clipFlag, h]
  decide

/-! ### The checks -/

section
variable {s : State} {w : Word} {body : Result}

/-- While detached a command that needs the transform raises NOT_ATTACHED (60_exceptions R276). -/
theorem needsAttached_of_detached (hf : s.faulted = false) (ha : s.attached = false) :
    unlessFaulted w s (if !s.attached then raiseFault w .notAttached s else body) = raiseFault w .notAttached s :=
  (unlessFaulted_of_ok hf).trans (if_pos (by rw [ha]; rfl))

/-- Attached, it goes on with its own checks (60_exceptions R276). -/
theorem needsAttached_of_attached (hf : s.faulted = false) (ha : s.attached = true) :
    unlessFaulted w s (if !s.attached then raiseFault w .notAttached s else body) = body :=
  (unlessFaulted_of_ok hf).trans (if_neg (by rw [ha]; decide))

end

theorem inRange_eq_false_iff {v m : Int} : inRange v m = false ↔ v < 0 ∨ m < v := by
  rw [inRange, decide_eq_false_iff_not]
  omega

/-- The check of YCC_FWD fails exactly when a component passes its plane (42_ycocg R206). -/
theorem pixel_out_iff {r g b : Word} {m0 m1 m2 : Int} :
    (!(inRange (asI32 r) m0 && inRange (asI32 g) m1 && inRange (asI32 b) m2)) = true ↔
      r.toInt < 0 ∨ m0 < r.toInt ∨ g.toInt < 0 ∨ m1 < g.toInt ∨ b.toInt < 0 ∨ m2 < b.toInt := by
  simp only [Bool.not_eq_true', Bool.and_eq_false_iff, inRange_eq_false_iff, asI32, or_assoc]

/-- The check of the conditional range commands fails exactly when Y is none of the cube (42_ycocg R211, R215). -/
theorem y_out_iff {y : Word} {m : Int} : (!inRange (asI32 y) m) = true ↔ y.toInt < 0 ∨ m < y.toInt := by
  rw [Bool.not_eq_true', inRange_eq_false_iff, asI32]

/-- The check of YCC_INV without CLIP fails exactly when a component does not fit in a word (42_ycocg R207). -/
theorem exact_out_iff {r g b : Int} : (!(fitsI32 r && fitsI32 g && fitsI32 b)) = true ↔
    ¬ ((-2 ^ 31 ≤ r ∧ r ≤ 2 ^ 31 - 1) ∧ (-2 ^ 31 ≤ g ∧ g ≤ 2 ^ 31 - 1) ∧ (-2 ^ 31 ≤ b ∧ b ≤ 2 ^ 31 - 1)) := by
  simp only [fitsI32, Bool.not_eq_true', Bool.and_eq_false_iff, decide_eq_false_iff_not]
  omega

/-- A plane that YCC_INIT accepts (42_ycocg R201). -/
theorem planeOk_iff {lo hi : Int} : planeOk lo hi = true ↔ 0 ≤ lo ∧ lo < hi := decide_eq_true_iff

/-- The planes YCC_INIT accepts: at least three, the first three of them each in order (42_ycocg R201). -/
theorem planesOk_iff {np : Nat} {min0 max0 min1 max1 min2 max2 : Word} :
    (decide (3 ≤ np) && planeOk (asI32 min0) (asI32 max0) && planeOk (asI32 min1) (asI32 max1) &&
      planeOk (asI32 min2) (asI32 max2)) = true ↔
    3 ≤ np ∧ (0 ≤ min0.toInt ∧ min0.toInt < max0.toInt) ∧ (0 ≤ min1.toInt ∧ min1.toInt < max1.toInt) ∧
      (0 ≤ min2.toInt ∧ min2.toInt < max2.toInt) := by
  simp only [Bool.and_eq_true, decide_eq_true_eq, planeOk_iff, asI32, and_assoc]

/-- Settles O59: the attachment is checked first, then the operands. -/
theorem yccCommandsCheckTheirOperands : Obligations.YccCommandsCheckTheirOperands := by
  intro s x y z hf
  refine ⟨fun ha => ?_, fun ha => ⟨fun hout => ?_, fun hout => ⟨?_, ?_⟩⟩⟩
  · refine ⟨?_, ?_, ?_, ?_, ?_⟩ <;> exact faults_of_raise hf (needsAttached_of_detached hf ha)
  · exact faults_of_raise hf ((needsAttached_of_attached hf ha).trans (if_pos (pixel_out_iff.2 hout)))
  · exact faults_of_raise hf ((needsAttached_of_attached hf ha).trans (if_pos (y_out_iff.2 hout)))
  · exact faults_of_raise hf ((needsAttached_of_attached hf ha).trans (if_pos (y_out_iff.2 hout)))

/-! ### YCC_INIT -/

/-- The maximum of accepted planes is the same read as a signed and as an unsigned word (42_ycocg R201). -/
theorem top_of_planesOk {max0 max1 max2 : Word} {min0 min1 min2 : Int} (h0 : planeOk min0 (asI32 max0) = true)
    (h1 : planeOk min1 (asI32 max1) = true) (h2 : planeOk min2 (asI32 max2) = true) :
    max (max (asI32 max0) (asI32 max1)) (asI32 max2) = (max (max max0.toNat max1.toNat) max2.toNat : Nat) := by
  rw [toInt_of_planeOk h0, toInt_of_planeOk h1, toInt_of_planeOk h2, Nat.cast_max, Nat.cast_max]

/-- Settles O55: the planes decide between an attachment and a refusal, and then their maximum between an answer and a
fault. -/
theorem yccInitAttachesOrRefuses : Obligations.YccInitAttachesOrRefuses := by
  intro s np min0 max0 min1 max1 min2 max2 hf _ i ok top
  have htop (h : ok) : max (max (asI32 max0) (asI32 max1)) (asI32 max2) = (top : Nat) := by
    obtain ⟨-, h0, h1, h2⟩ := h
    exact top_of_planesOk (planeOk_iff.2 h0) (planeOk_iff.2 h1) (planeOk_iff.2 h2)
  refine ⟨fun hok hle => ?_, fun hok => ?_, fun hok hlt => faults_of_raise hf ?_⟩
  · refine (unlessFaulted_of_ok hf).trans ((if_pos (planesOk_iff.2 hok)).trans ?_)
    rw [htop hok]
    exact if_neg (by omega)
  · exact (unlessFaulted_of_ok hf).trans (if_neg (mt planesOk_iff.1 hok))
  · refine (unlessFaulted_of_ok hf).trans ((if_pos (planesOk_iff.2 hok)).trans ?_)
    rw [htop hok]
    exact if_pos (by omega)

/-! ### Pixels -/

/-- Settles O56: the plane maxima lie in the cube of YC_PAR, so the transform of the pixel lies in the unconditional
ranges and every component fits in a word. -/
theorem yccFwdTransformsThePixel : Obligations.YccFwdTransformsThePixel := by
  intro s r g b hs hf ha hr hr' hg hg' hb hb' par h
  obtain ⟨⟨hm0, hm1, hm2⟩, -, hpar⟩ := hs.par_bounds ha
  obtain ⟨hy, hco, hcg⟩ := yccForward_bounds (par := par) ⟨hr, hr'.trans hm0⟩ ⟨hg, hg'.trans hm1⟩ ⟨hb, hb'.trans hm2⟩
  have hy' := toInt_asU32 (v := (yccForward r.toInt g.toInt b.toInt).x) (by omega)
  have hco' := toInt_asU32 (v := (yccForward r.toInt g.toInt b.toInt).y) (by omega)
  have hcg' := toInt_asU32 (v := (yccForward r.toInt g.toInt b.toInt).z) (by omega)
  exact ⟨_, _, _, (needsAttached_of_attached hf ha).trans (if_neg (mt pixel_out_iff.1 (by omega))), hy', hco', hcg',
    hy'.symm ▸ hy, hco'.symm ▸ hco, hcg'.symm ▸ hcg⟩

/-- A component clipped to a plane of an attached transform fits in a word (42_ycocg R207). -/
theorem toInt_asU32_clip {m : Nat} (hm : m ≤ 2 ^ 27) (v : Int) : (asU32 (clipInt v 0 m)).toInt = min (max v 0) m := by
  refine toInt_asU32 ?_
  rw [clipInt]
  omega

/-- Settles O57: a clipped component always fits in a word, and an exact one is answered only when it does. -/
theorem yccInvTransformsBack : Obligations.YccInvTransformsBack := by
  intro s y co cg hs hf ha a r g b fits
  obtain ⟨⟨hm0, hm1, hm2⟩, -, hpar⟩ := hs.par_bounds ha
  refine ⟨fun hc => ?_, fun hc hfit => ?_, fun hc hfit => faults_of_raise hf ?_⟩
  · exact ⟨_, _, _, (needsAttached_of_attached hf ha).trans (if_pos (clipFlag_of_ctrl_one hc)),
      toInt_asU32_clip (by omega) r, toInt_asU32_clip (by omega) g, toInt_asU32_clip (by omega) b⟩
  · obtain ⟨hr, hg, hb⟩ := hfit
    exact ⟨_, _, _, (needsAttached_of_attached hf ha).trans ((if_neg (clipFlag_of_ctrl_zero hc)).trans
      (if_neg (mt exact_out_iff.1 (not_not.2 ⟨hr, hg, hb⟩)))), toInt_asU32 hr, toInt_asU32 hg, toInt_asU32 hb⟩
  · exact (needsAttached_of_attached hf ha).trans ((if_neg (clipFlag_of_ctrl_zero hc)).trans
      (if_pos (exact_out_iff.2 hfit)))

/-! ### The oracle -/

section
variable {f : FnChoice} {par y co : Int}

/-- Outside the window every oracle gives the sentinel (42_ycocg R212). -/
theorem cgRange_outside (h : ¬ (minCo par y ≤ co ∧ co ≤ maxCo par y)) : cgRange f par y co = (8 * par, -8 * par) :=
  if_neg (mt of_decide_eq_true h)

/-- Inside it the default oracle gives the tight range (42_ycocg R214). -/
theorem cgRange_spec_inside (h : minCo par y ≤ co ∧ co ≤ maxCo par y) :
    cgRange .spec par y co = (tightMinCg par y co, tightMaxCg par y co) :=
  if_pos (decide_eq_true h)

/-- Inside it an instance's own oracle widens the tight range to two words (log entry 2). -/
theorem cgRange_other_inside (h : minCo par y ≤ co ∧ co ≤ maxCo par y) (n : Nat) : ∃ lo hi : Word,
    cgRange (.other n) par y co = (min (tightMinCg par y co) lo.toInt, max (tightMaxCg par y co) hi.toInt) :=
  ⟨_, _, if_pos (decide_eq_true h)⟩

/-- Inside it every oracle's range holds the tight one (42_ycocg R213). -/
theorem cgRange_holds_tight (h : minCo par y ≤ co ∧ co ≤ maxCo par y) :
    (cgRange f par y co).1 ≤ tightMinCg par y co ∧ tightMaxCg par y co ≤ (cgRange f par y co).2 := by
  cases f with
  | spec =>
    rw [cgRange_spec_inside h]
    exact ⟨le_rfl, le_rfl⟩
  | other n =>
    obtain ⟨lo, hi, he⟩ := cgRange_other_inside h n
    rw [he]
    exact ⟨min_le_left _ _, le_max_left _ _⟩

/-- Every oracle's bounds fit in a word (42_ycocg R217). -/
theorem cgRange_fits (h0 : 0 ≤ y) (h1 : y ≤ 4 * par - 1) (hpar : par ≤ 2 ^ 24) :
    (-2 ^ 31 ≤ (cgRange f par y co).1 ∧ (cgRange f par y co).1 ≤ 2 ^ 31 - 1) ∧
    (-2 ^ 31 ≤ (cgRange f par y co).2 ∧ (cgRange f par y co).2 ≤ 2 ^ 31 - 1) := by
  by_cases h : minCo par y ≤ co ∧ co ≤ maxCo par y
  · obtain ⟨hlo, hhi⟩ := (oracle_abs_le h0 h1).2 h
    rw [abs_le] at hlo hhi
    cases f with
    | spec =>
      rw [cgRange_spec_inside h]
      dsimp only
      omega
    | other n =>
      obtain ⟨lo, hi, he⟩ := cgRange_other_inside h n
      have := lo.le_toInt
      have := lo.toInt_lt
      have := hi.le_toInt
      have := hi.toInt_lt
      rw [he]
      dsimp only
      omega
  · rw [cgRange_outside h]
    dsimp only
    omega

end

/-- Settles O58: every bound the oracle gives for a Y of the cube fits in a word, so each is answered as it is. -/
theorem yccRangesAnswerTheOracle : Obligations.YccRangesAnswerTheOracle := by
  intro s y co hs hf ha par
  obtain ⟨-, hpar, hpar'⟩ := hs.par_bounds ha
  refine ⟨⟨_, toInt_asU32 ?_, needsAttached_of_attached hf ha⟩, fun h0 h1 => ?_⟩
  · omega
  have hin : ¬ (!inRange (asI32 y) (4 * par - 1)) = true := mt y_out_iff.1 (by omega)
  constructor
  · obtain ⟨hlo, hhi⟩ := (oracle_abs_le (co := co.toInt) h0 h1).1
    exact ⟨_, _, toInt_asU32_of_abs_le (by omega), toInt_asU32_of_abs_le (by omega),
      (needsAttached_of_attached hf ha).trans (if_neg hin)⟩
  · obtain ⟨hlo, hhi⟩ := cgRange_fits (f := s.cfg.cgFn) (co := co.toInt) h0 h1 hpar'
    refine ⟨asU32 (cgRange s.cfg.cgFn par y.toInt co.toInt).1, asU32 (cgRange s.cfg.cgFn par y.toInt co.toInt).2,
      (needsAttached_of_attached hf ha).trans (if_neg hin), ?_⟩
    rw [toInt_asU32 hlo, toInt_asU32 hhi]
    split
    · rename_i hwindow
      obtain ⟨hmin, hmax⟩ := cgRange_holds_tight (f := s.cfg.cgFn) hwindow
      refine ⟨hmin, hmax, fun hfn => ?_⟩
      rw [hfn]
      exact Prod.mk.inj (cgRange_spec_inside hwindow)
    · rename_i hwindow
      exact Prod.mk.inj (cgRange_outside hwindow)

end Sys2Proof.Machine

/-! SUPPORT. NOP, and the checks of REG_WRITE (43_control R250, R252). -/

namespace Sys2Proof.Machine

/-- Settles O22: NOP only appends its empty answer, and makes no check of the faulted state. -/
theorem nopAnswersOk : Obligations.NopAnswersOk := by
  intro s
  show execNop s = _
  rfl

/-- Settles O27: the map is checked first, then that the register is CTRL, then that no reserved bit is set. -/
theorem regWriteFaults : Obligations.RegWriteFaults := by
  intro s n v hf
  refine ⟨fun hmap => faults_of_raise hf (raise_of_first hf hmap),
    fun hmap hn => faults_of_raise hf (raise_of_second hf hmap hn), fun hn hv => faults_of_raise hf ?_⟩
  subst hn
  have hmap : csrRead s 0x03 ≠ none := Option.some_ne_none s.ctrl
  have hbits : v.toNat / 2 ≠ 0 := (Nat.div_pos hv (by decide)).ne'
  exact (unlessFaulted_of_ok hf).trans ((if_neg hmap).trans ((if_neg (not_not.2 rfl)).trans (if_pos hbits)))

end Sys2Proof.Machine

/-! SUPPORT. What the faulted state lets a step do, and what every command does to the fault registers and the responses
(60_exceptions R272 to R275). -/

namespace Sys2Proof.Machine

/-! ### In the faulted state -/

/-- Settles O17: every other command checks the faulted state before anything else. -/
theorem faultedStateRefusesCommands : Obligations.FaultedStateRefusesCommands := by
  intro i s hf hi
  cases i with
  | nop => cases hi
  | regRead csr => cases hi
  | _ => exact unlessFaulted_of_faulted hf

theorem exists_of_runsWhileFaulted {i : Instr} (h : runsWhileFaulted i = true) : i = .nop ∨ ∃ csr, i = .regRead csr := by
  cases i with
  | nop => exact .inl rfl
  | regRead csr => exact .inr ⟨csr, rfl⟩
  | _ => cases h

/-- In the faulted state a command, run or refused, only appends to the responses (60_exceptions R273, R275). -/
theorem exec_of_faulted {s : State} (hf : s.faulted = true) (i : Instr) :
    ∃ rs, exec i s = .next { s with resp := rs } := by
  cases hi : runsWhileFaulted i with
  | false => exact ⟨_, faultedStateRefusesCommands i s hf hi⟩
  | true =>
    obtain rfl | ⟨csr, rfl⟩ := exists_of_runsWhileFaulted hi
    · exact ⟨_, nopAnswersOk s⟩
    · cases hv : csrRead s csr with
      | none => exact ⟨_, (exec_regRead_unmapped hv).trans (congrArg _ (takeFault_later hf))⟩
      | some v => exact ⟨_, exec_regRead_mapped hv⟩

/-- Settles O16: with nothing held a step waits, answers an illegal word, or runs a command, which only answers. -/
theorem faultedStateIsQuiescent : Obligations.FaultedStateIsQuiescent := by
  intro s t hf hh
  refine ensures_step (P := fun t => t = { s with cmd := t.cmd, resp := t.resp }) (fun h hhold => ?_) rfl
    (fun w why rest _ _ => ?_) (fun i rest _ _ => ?_) t
  · exact absurd (hh.symm.trans hhold) nofun
  · rw [takeFault_later (s := takeWords rest s) hf]
    rfl
  · obtain ⟨rs, he⟩ := exec_of_faulted (s := takeWords rest s) hf i
    rw [he]
    exact ensures_next rfl

/-! ### The report of a command -/

/-- The fault registers and the responses are the same (60_exceptions R272). -/
structure SameReport (s t : State) : Prop where
  faulted : t.faulted = s.faulted
  cause : t.cause = s.cause
  faultInfo : t.faultInfo = s.faultInfo
  resp : t.resp = s.resp

/-- How the command `i` that started in `s` reports (20_memory R72, 60_exceptions R272, R274): after updates that are no
report it holds, or answers OK, or raises a fault; before any update when the fault is not one of the two that come in
the middle of a command. -/
inductive Reports (i : Instr) (s : State) : State → Prop where
  | silent {u : State} (h : SameReport s u) : Reports i s u
  | ok {u : State} (h : SameReport s u) (ws : List Word) : Reports i s (respondOk ws u)
  | fault {u : State} {c : Cause} (h : SameReport s u) (hc : u = s ∨ c = .streamTruncated ∨ c = .pendingOverflow) :
    Reports i s (takeFault (encodeWord i) c u)

theorem SameReport.refl (s : State) : SameReport s s := ⟨rfl, rfl, rfl, rfl⟩

section
variable {s t u : State}

theorem SameReport.trans (h : SameReport s t) (h' : SameReport t u) : SameReport s u :=
  ⟨h'.faulted.trans h.faulted, h'.cause.trans h.cause, h'.faultInfo.trans h.faultInfo, h'.resp.trans h.resp⟩

theorem frameCoder.sameReport (h : frameCoder s t) : SameReport s t := by
  rw [h]
  exact ⟨rfl, rfl, rfl, rfl⟩

theorem frameSource.sameReport (h : frameSource s t) : SameReport s t := by
  rw [h]
  exact ⟨rfl, rfl, rfl, rfl⟩

theorem applyUpdate_sameReport (o : Option (Nat × BitVec 12)) (s : State) : SameReport s (applyUpdate o s) := by
  cases o with
  | none => exact .refl s
  | some x => exact ⟨rfl, rfl, rfl, rfl⟩

end

section
variable {i : Instr} {s : State}

theorem reports_early (c : Cause) : Reports i s (takeFault (encodeWord i) c s) := .fault (.refl s) (.inl rfl)

/-- A command that writes no report of its own before it answers. -/
theorem answer_reports {u : State} {ws : List Word} (h : SameReport s u := by exact ⟨rfl, rfl, rfl, rfl⟩) :
    Ensures (Reports i s) (answer ws u) :=
  ensures_next (.ok h ws)

theorem unlessFaulted_reports {body : Result} (h : Ensures (Reports i s) body) :
    Ensures (Reports i s) (unlessFaulted (encodeWord i) s body) :=
  ensures_unlessFaulted (fun _ => reports_early _) fun _ => h

theorem check_reports {p : Prop} [Decidable p] {c : Cause} {rest : Result} (h : Ensures (Reports i s) rest) :
    Ensures (Reports i s) (if p then raiseFault (encodeWord i) c s else rest) :=
  ensures_check (fun _ => reports_early _) fun _ => h

theorem checkNext_reports {k : Nat} {st : BitVec 12} {rest : BitVec 12 × BitVec 12 → Result}
    (h : ∀ n, Ensures (Reports i s) (rest n)) :
    Ensures (Reports i s)
      (match checkNext s k st with | .error c => raiseFault (encodeWord i) c s | .ok n => rest n) :=
  ensures_checkNext (fun _ _ => reports_early _) fun n _ => h n

/-- A command that encodes has written only the encoder's registers and the sink when it reports. -/
theorem finishEnc_reports {e : EncEnd} {after : State → State}
    (he : ∀ u, e = .done u ∨ e = .overflow u → frameCoder s u) (ha : ∀ u, SameReport u (after u)) :
    Ensures (Reports i s) (finishEnc (encodeWord i) e after) :=
  ensures_finishEnc (fun u hu => .ok ((he u (.inl hu)).sameReport.trans (ha u)) _)
    (fun u hu => .fault (he u (.inr hu)).sameReport (.inr (.inr rfl)))

theorem setHold_sameReport {t : State} (h : SameReport s t) (o : Option Hold) : SameReport s (setHold o t) :=
  h.trans ⟨rfl, rfl, rfl, rfl⟩

theorem decodeWith_reports (p : Nat) (next : Bool → Option (Nat × BitVec 12)) :
    Reports i s (decodeWith (encodeWord i) p next s) := by
  have h := ((decSplit_frame p s).trans (decRefill_frame s.src _)).sameReport
  rcases settleDecode_cases (encodeWord i) (decBit p s) (next (decBit p s)) (decRefill s.src (decSplit p s)) with
    ⟨-, he⟩ | ⟨-, -, he⟩ | ⟨-, -, he⟩
  · rw [decodeWith, he]
    exact .ok ((setHold_sameReport h none).trans (applyUpdate_sameReport ..)) _
  · rw [decodeWith, he]
    exact .fault (setHold_sameReport h none) (.inr (.inl rfl))
  · rw [decodeWith, he]
    exact .silent (setHold_sameReport h _)

theorem settleStart_reports {r : Nat × State} (h : SameReport s r.2) : Reports i s (settleStart (encodeWord i) r) := by
  rcases settleStart_cases (encodeWord i) r with ⟨-, he⟩ | ⟨-, -, he⟩ | ⟨-, -, he⟩
  · rw [he]
    exact .ok (u := setMode .dec (setHold none r.2)) (h.trans ⟨rfl, rfl, rfl, rfl⟩) _
  · rw [he]
    exact .fault (setHold_sameReport h none) (.inr (.inl rfl))
  · rw [he]
    exact .silent (setHold_sameReport h _)

end

/-- Every command makes its checks in the state it started in; after them only a fault of the coder or of the source can
come. The last case takes the commands that only read the state before they answer. -/
theorem exec_reports (i : Instr) (s : State) : Ensures (Reports i s) (exec i s) := by
  cases i with
  | nop => exact answer_reports
  | regRead csr =>
    cases hv : csrRead s csr with
    | none => exact exec_regRead_unmapped hv ▸ ensures_next (reports_early _)
    | some v => exact exec_regRead_mapped hv ▸ answer_reports (u := s) (ws := [v])
  | regWrite csr v =>
    exact unlessFaulted_reports <| check_reports <| check_reports <| check_reports <|
      answer_reports
  | rcStartEnc => exact unlessFaulted_reports <| answer_reports
  | rcStartDec =>
    have hopen : SameReport s (openDecoder s) := ⟨rfl, rfl, rfl, rfl⟩
    obtain ⟨hframe, -⟩ := fillWindow_spec 3 (openDecoder s)
    exact unlessFaulted_reports <| ensures_next <| settleStart_reports (hopen.trans hframe.sameReport)
  | rcFlush =>
    exact unlessFaulted_reports <| check_reports <| finishEnc_reports
      (fun _ hu => (setInterval_frame _ _ _).trans (flushShifts_frame hu)) fun _ => ⟨rfl, rfl, rfl, rfl⟩
  | rcAbort => exact unlessFaulted_reports <| answer_reports
  | rcEncP bit p =>
    exact unlessFaulted_reports <| check_reports <| check_reports <|
      finishEnc_reports (fun _ => encodeBit_frame) .refl
  | rcDecP p =>
    exact unlessFaulted_reports <| check_reports <| check_reports <| ensures_next (decodeWith_reports _ _)
  | bcClear => exact unlessFaulted_reports <| answer_reports
  | bcSet ctx v =>
    exact unlessFaulted_reports <| check_reports <| check_reports <| answer_reports
  | bcPut t bit ctx =>
    exact unlessFaulted_reports <| check_reports <| checkNext_reports fun _ =>
      answer_reports
  | tblBuild t cut alpha =>
    refine unlessFaulted_reports <| check_reports <| check_reports ?_
    dsimp only
    split
    · exact answer_reports
    · exact answer_reports
  | tblWrite t b st v =>
    exact unlessFaulted_reports <| check_reports <| check_reports <| answer_reports
  | tblRead t b st =>
    refine unlessFaulted_reports <| check_reports ?_
    split
    · exact ensures_next (reports_early _)
    · exact answer_reports
  | encCtx t bit ctx =>
    exact unlessFaulted_reports <| check_reports <| check_reports <| checkNext_reports fun _ =>
      finishEnc_reports (fun _ => encodeBit_frame) fun _ => ⟨rfl, rfl, rfl, rfl⟩
  | decCtx t ctx =>
    exact unlessFaulted_reports <| check_reports <| check_reports <| checkNext_reports fun _ =>
      ensures_next (decodeWith_reports _ _)
  | yccInit np min0 max0 min1 max1 min2 max2 =>
    refine unlessFaulted_reports ?_
    split
    · exact check_reports answer_reports
    · exact answer_reports
  | _ => exact unlessFaulted_reports (by simp [Reports.ok, SameReport.refl, reports_early])

/-- Settles O18: the causes left over are raised in the state the command started in. -/
theorem faultsComeBeforeAnyEffect : Obligations.FaultsComeBeforeAnyEffect := by
  intro i s t c hf ht ha hsrc hpend
  cases exec_reports i s t ht with
  | silent h => simp [answered, h.resp] at ha
  | ok h ws => simp [answered, h.resp] at ha
  | fault h hc =>
    obtain rfl : _ = c := by simpa [answered, h.resp] using ha
    obtain rfl := hc.resolve_right (not_or.2 ⟨hsrc, hpend⟩)
    exact takeFault_first hf

/-- Settles O19: only fault entry writes the fault registers, and outside the faulted state it records the fault. -/
theorem firstFaultIsRecorded : Obligations.FirstFaultIsRecorded := by
  intro i s t hf ht
  cases exec_reports i s t ht with
  | silent h => exact .inr ⟨.inl h.resp, h.faulted.trans hf, h.cause, h.faultInfo⟩
  | ok h ws => exact .inr ⟨.inr ⟨ws, congrArg (· ++ _) h.resp⟩, h.faulted.trans hf, h.cause, h.faultInfo⟩
  | fault h hc =>
    rw [takeFault_first (h.faulted.trans hf)]
    exact .inl ⟨_, congrArg (· ++ _) h.resp, rfl, rfl, rfl⟩

end Sys2Proof.Machine

/-! SUPPORT. What a reset by the host leaves to read (70_reset_and_hazards R300, R301). -/

namespace Sys2Proof.Machine

@[simp] theorem hostReset_cfg (s : State) : (hostReset s).cfg = s.cfg := rfl

/-- STATUS reads 0 when every field of it has its zero code (10_state R36, 60_exceptions R271). -/
theorem statusWord_eq_zero {s : State} (hm : s.mode = .idle) (hf : s.faulted = false) (ha : s.attached = false)
    (hc : s.cause = .noFault) : statusWord s = 0 := by
  simp [statusWord, modeCode, causeCode, hm, hf, ha, hc]

@[simp] theorem statusWord_hostReset (s : State) : statusWord (hostReset s) = 0 :=
  statusWord_eq_zero rfl rfl rfl rfl

@[simp] theorem ctxRead_hostReset (s : State) (i : Nat) : ctxRead (hostReset s) i = 0x800 := rfl

@[simp] theorem tblEntry_hostReset (s : State) (t : Nat) (b : Bool) (st : Nat) :
    tblEntry (hostReset s) t b st = none := rfl

@[simp] theorem tblCutOf_hostReset (s : State) (t : Nat) : tblCutOf (hostReset s) t = 0 := rfl

@[simp] theorem tblAlphaOf_hostReset (s : State) (t : Nat) : tblAlphaOf (hostReset s) t = 0 := rfl

/-- The parameter registers of every table the instance has read 0 after a reset. -/
theorem csrRead_hostReset_tblParams (s : State) (hn : (hostReset s).cfg.ntab ≤ 16) {t : Nat}
    (ht : t < (hostReset s).cfg.ntab) :
    csrRead (hostReset s) (0x10 + t) = some 0 ∧ csrRead (hostReset s) (0x20 + t) = some 0 := by
  rw [csrRead_tblCut _ ht, csrRead_tblAlpha _ hn ht, tblCutOf_hostReset, tblAlphaOf_hostReset]
  exact ⟨rfl, rfl⟩

/-- Settles O11: the registers below 0x0F by the map itself, the arrays by their reads. Power-on is a reset (R300):
the state after power-on is what a reset by the host leaves of it. -/
theorem resetLeavesTheSpecifiedValues : Obligations.ResetLeavesTheSpecifiedValues := by
  unfold Obligations.ResetLeavesTheSpecifiedValues
  intro values
  have hvalues : ∀ s, values (hostReset s) := fun s =>
    ⟨rfl, rfl, congrArg some (statusWord_hostReset s), rfl, rfl, rfl, rfl, rfl, rfl, rfl, rfl, rfl, rfl, rfl, rfl,
      fun hn _ ht => csrRead_hostReset_tblParams s hn ht,
      rfl, rfl, rfl, rfl, rfl, ctxRead_hostReset s, tblEntry_hostReset s, rfl, rfl⟩
  have hpower : values State.reset := hvalues State.reset
  exact ⟨⟨hpower, rfl, rfl⟩, fun s => ⟨hvalues s, hostReset_cfg s, rfl, rfl, rfl, rfl⟩⟩

end Sys2Proof.Machine
